-- ==== Sys2Proof/Word.lean ====
section
/-! DEFINITION. The word types of the CSE13S-NTA: the 32-bit bus and register word, the byte, and the register index.
An integer that a command reads or writes is a natural number (00_scope.md R8), so it is a `Nat`, not a bit vector. -/

namespace Sys2Proof

/-- A 32-bit bus word, and the content of a control register (20_memory.md R52, 10_state.md R23). -/
abbrev Word := BitVec 32

/-- A byte: SENTINEL, or one byte of a payload string (10_state.md R26, 00_scope.md R9). -/
abbrev Byte := BitVec 8

/-- An operand register index: all 16 values are legal (30_encoding.md R72). -/
abbrev Reg := Fin 16

end Sys2Proof
end

