-- ==== Sys2Proof/Syntax.lean ====
section
/-! DEFINITION. The 22 commands of the NTA command set (30_encoding.md R75, opcode_table.json), each with the register
fields its opcode uses and no others (R73). The argument word is no part of the command word: it is latched beside it
(R70), and Machine/Operands.lean reads it. -/

namespace Sys2Proof

/-- A decoded command word. Register fields stand in the order of the "fields" column of R75; the last field of `divmod`
is `rr`, the rs3 field used as a second destination. -/
inductive Instr where
  | nop
  | ldi (rd : Reg)
  | mov (rd rs1 : Reg)
  | add (rd rs1 rs2 : Reg)
  | sub (rd rs1 rs2 : Reg)
  | mul (rd rs1 rs2 : Reg)
  | divmod (rd rs1 rs2 rr : Reg)
  | cmp (rs1 rs2 : Reg)
  | bitlen (rd rs1 : Reg)
  | modmul (rd rs1 rs2 rs3 : Reg)
  | seed (rs1 : Reg)
  | rngclr
  | randb (rd : Reg)
  | randm (rd rs1 : Reg)
  | gcd (rd rs1 rs2 : Reg)
  | modinv (rd rs1 rs2 : Reg)
  | powmod (rd rs1 rs2 rs3 : Reg)
  | isprime (rd rs1 : Reg)
  | makeprime (rd : Reg)
  | blksz (rd rs1 : Reg)
  | encrypt (rd rs1 rs2 : Reg)
  | decrypt (rd rs1 rs2 rs3 : Reg)
  deriving DecidableEq, Repr

end Sys2Proof
end

