-- ==== Sys2Proof/Decode.lean ====
section
/-! DEFINITION. The command word: its fields (30_encoding.md R71), the decoder, total on every word and rejecting the
reserved opcodes by name (R75, R76), and the encoder written from the same table (R71, R78). -/

namespace Sys2Proof

/-- Why a word does not decode: its opcode is one of the 42 reserved ones (30_encoding.md R76). -/
inductive DecodeReject where
  | reservedOpcode (op : BitVec 6)
  deriving DecidableEq, Repr

/-- `op = cw[31:26]` (30_encoding.md R71). -/
def opField (cw : Word) : BitVec 6 := cw.extractLsb' 26 6

/-- `rd = cw[25:22]`. -/
def rdField (cw : Word) : Reg := (cw.extractLsb' 22 4).toFin

/-- `rs1 = cw[21:18]`. -/
def rs1Field (cw : Word) : Reg := (cw.extractLsb' 18 4).toFin

/-- `rs2 = cw[17:14]`. -/
def rs2Field (cw : Word) : Reg := (cw.extractLsb' 14 4).toFin

/-- `rs3 = cw[13:10]`; `rr` for DIVMOD. -/
def rs3Field (cw : Word) : Reg := (cw.extractLsb' 10 4).toFin

/-- The opcode map of 30_encoding.md R75. Only `op` and the fields the opcode uses are read; the other register fields
and `rsv = cw[9:0]` are ignored (R73). -/
def decode (cw : Word) : Except DecodeReject Instr :=
  match (opField cw).toNat with
  | 0x00 => .ok .nop
  | 0x01 => .ok (.ldi (rdField cw))
  | 0x02 => .ok (.mov (rdField cw) (rs1Field cw))
  | 0x03 => .ok (.add (rdField cw) (rs1Field cw) (rs2Field cw))
  | 0x04 => .ok (.sub (rdField cw) (rs1Field cw) (rs2Field cw))
  | 0x05 => .ok (.mul (rdField cw) (rs1Field cw) (rs2Field cw))
  | 0x06 => .ok (.divmod (rdField cw) (rs1Field cw) (rs2Field cw) (rs3Field cw))
  | 0x07 => .ok (.cmp (rs1Field cw) (rs2Field cw))
  | 0x08 => .ok (.bitlen (rdField cw) (rs1Field cw))
  | 0x09 => .ok (.modmul (rdField cw) (rs1Field cw) (rs2Field cw) (rs3Field cw))
  | 0x0A => .ok (.seed (rs1Field cw))
  | 0x0B => .ok .rngclr
  | 0x0C => .ok (.randb (rdField cw))
  | 0x0D => .ok (.randm (rdField cw) (rs1Field cw))
  | 0x0E => .ok (.gcd (rdField cw) (rs1Field cw) (rs2Field cw))
  | 0x0F => .ok (.modinv (rdField cw) (rs1Field cw) (rs2Field cw))
  | 0x10 => .ok (.powmod (rdField cw) (rs1Field cw) (rs2Field cw) (rs3Field cw))
  | 0x11 => .ok (.isprime (rdField cw) (rs1Field cw))
  | 0x12 => .ok (.makeprime (rdField cw))
  | 0x13 => .ok (.blksz (rdField cw) (rs1Field cw))
  | 0x14 => .ok (.encrypt (rdField cw) (rs1Field cw) (rs2Field cw))
  | 0x15 => .ok (.decrypt (rdField cw) (rs1Field cw) (rs2Field cw) (rs3Field cw))
  | _ => .error (.reservedOpcode (opField cw))

/-- The opcode of each command (30_encoding.md R75). -/
def Instr.opcode : Instr → BitVec 6
  | .nop => 0x00#6
  | .ldi _ => 0x01#6
  | .mov _ _ => 0x02#6
  | .add _ _ _ => 0x03#6
  | .sub _ _ _ => 0x04#6
  | .mul _ _ _ => 0x05#6
  | .divmod _ _ _ _ => 0x06#6
  | .cmp _ _ => 0x07#6
  | .bitlen _ _ => 0x08#6
  | .modmul _ _ _ _ => 0x09#6
  | .seed _ => 0x0A#6
  | .rngclr => 0x0B#6
  | .randb _ => 0x0C#6
  | .randm _ _ => 0x0D#6
  | .gcd _ _ _ => 0x0E#6
  | .modinv _ _ _ => 0x0F#6
  | .powmod _ _ _ _ => 0x10#6
  | .isprime _ _ => 0x11#6
  | .makeprime _ => 0x12#6
  | .blksz _ _ => 0x13#6
  | .encrypt _ _ _ => 0x14#6
  | .decrypt _ _ _ _ => 0x15#6

/-- The register fields of each command, `none` where the opcode does not use the field (30_encoding.md R75):
rd, rs1, rs2, rs3. -/
def Instr.fields : Instr → Option Reg × Option Reg × Option Reg × Option Reg
  | .nop => (none, none, none, none)
  | .ldi rd => (some rd, none, none, none)
  | .mov rd rs1 => (some rd, some rs1, none, none)
  | .add rd rs1 rs2 => (some rd, some rs1, some rs2, none)
  | .sub rd rs1 rs2 => (some rd, some rs1, some rs2, none)
  | .mul rd rs1 rs2 => (some rd, some rs1, some rs2, none)
  | .divmod rd rs1 rs2 rr => (some rd, some rs1, some rs2, some rr)
  | .cmp rs1 rs2 => (none, some rs1, some rs2, none)
  | .bitlen rd rs1 => (some rd, some rs1, none, none)
  | .modmul rd rs1 rs2 rs3 => (some rd, some rs1, some rs2, some rs3)
  | .seed rs1 => (none, some rs1, none, none)
  | .rngclr => (none, none, none, none)
  | .randb rd => (some rd, none, none, none)
  | .randm rd rs1 => (some rd, some rs1, none, none)
  | .gcd rd rs1 rs2 => (some rd, some rs1, some rs2, none)
  | .modinv rd rs1 rs2 => (some rd, some rs1, some rs2, none)
  | .powmod rd rs1 rs2 rs3 => (some rd, some rs1, some rs2, some rs3)
  | .isprime rd rs1 => (some rd, some rs1, none, none)
  | .makeprime rd => (some rd, none, none, none)
  | .blksz rd rs1 => (some rd, some rs1, none, none)
  | .encrypt rd rs1 rs2 => (some rd, some rs1, some rs2, none)
  | .decrypt rd rs1 rs2 rs3 => (some rd, some rs1, some rs2, some rs3)

/-- The source registers of each command, in field order: every register field it uses but the destinations `rd` and,
for DIVMOD, `rr` (30_encoding.md R71, R75). -/
def Instr.sources : Instr → List Reg
  | .nop | .ldi _ | .rngclr | .randb _ | .makeprime _ => []
  | .mov _ rs1 | .bitlen _ rs1 | .seed rs1 | .randm _ rs1 | .isprime _ rs1 | .blksz _ rs1 => [rs1]
  | .add _ rs1 rs2 | .sub _ rs1 rs2 | .mul _ rs1 rs2 | .divmod _ rs1 rs2 _ | .cmp rs1 rs2 | .gcd _ rs1 rs2
  | .modinv _ rs1 rs2 | .encrypt _ rs1 rs2 => [rs1, rs2]
  | .modmul _ rs1 rs2 rs3 | .powmod _ rs1 rs2 rs3 | .decrypt _ rs1 rs2 rs3 => [rs1, rs2, rs3]

/-- A register field as its four bits; an unused field is written as 0 (30_encoding.md R73). -/
def fieldBits : Option Reg → BitVec 4
  | some ρ => BitVec.ofFin ρ
  | none => 0#4

/-- `cw = (op << 26) | (rd << 22) | (rs1 << 18) | (rs2 << 14) | (rs3 << 10) | rsv` with unused fields and `rsv` zero
(30_encoding.md R71, R78). -/
def encode (i : Instr) : Word :=
  i.opcode ++ fieldBits i.fields.1 ++ fieldBits i.fields.2.1 ++ fieldBits i.fields.2.2.1 ++ fieldBits i.fields.2.2.2
    ++ 0#10

/-- All ones where a field is used. -/
def fieldMask : Option Reg → BitVec 4
  | some _ => 0xF#4
  | none => 0#4

/-- The bits of a command word that the command reads: the opcode and its own fields (30_encoding.md R73). -/
def Instr.usedMask (i : Instr) : Word :=
  0x3F#6 ++ fieldMask i.fields.1 ++ fieldMask i.fields.2.1 ++ fieldMask i.fields.2.2.1 ++ fieldMask i.fields.2.2.2
    ++ 0#10

/-- The command the decoder reads from a word whose bits are `w`, of which `nbits` are given and the rest are 0. A command
is one 32-bit word (30_encoding.md R70), so a longer row is none. -/
def decodeTableWord (nbits w : Nat) : Option Instr :=
  if nbits ≤ 32 then
    match decode (BitVec.ofNat 32 (w % 2 ^ nbits)) with
    | .ok i => some i
    | .error _ => none
  else none

end Sys2Proof
end

