-- ==== Sys2Proof/Machine/Arith.lean ====
section
/-! DEFINITION. The arithmetic of the units, on naturals: bit and byte length and byte strings (00_scope.md R8, R9), the
Euclid unit (42_gcd.md), the exponentiation engine (43_powmod.md), the Miller-Rabin round (44_isprime.md) and the
candidate (45_makeprime.md). Each loop is the spec's own, on a bound that the law about it shows to be enough. -/

namespace Sys2Proof.Machine

/-- `bitlen(v)`, the least `L` with `v < 2^L` (00_scope.md R8). -/
def bitlen (v : Nat) : Nat := if v = 0 then 0 else Nat.log2 v + 1

/-- `bytelen(v) = (bitlen(v) + 7) div 8` (00_scope.md R8). -/
def bytelen (v : Nat) : Nat := (bitlen v + 7) / 8

/-- The integer a big-endian byte string denotes (00_scope.md R9). -/
def ofBytes (bs : List Byte) : Nat := bs.foldl (fun v b => v * 256 + b.toNat) 0

/-- The `len`-byte big-endian string of a value below `256^len`, leading zero bytes included (00_scope.md R9,
46_cipher.md R183). -/
def toBytes : Nat → Nat → List Byte
  | 0, _ => []
  | len + 1, v => BitVec.ofNat 8 (v / 256 ^ len) :: toBytes len v

/-- The export of a natural: no leading zero byte, and the empty string for 0 (00_scope.md R9). -/
def exportBytes (v : Nat) : List Byte := toBytes (bytelen v) v

/-- The loop of GCD: `while v != 0: (u, v) <- (v, u mod v)` (42_gcd.md R140), for at most `fuel` passes. -/
def gcdLoop : (fuel : Nat) → (u v : Nat) → Nat
  | 0, u, _ => u
  | fuel + 1, u, v => if v = 0 then u else gcdLoop fuel v (u % v)

/-- `gcd(a, b)` by the classic Euclidean algorithm (42_gcd.md R140). `v` falls at each pass, so `b + 1` passes are
enough (log 12). -/
def euclid (a b : Nat) : Nat := gcdLoop (b + 1) a b

/-- The loop of MODINV (42_gcd.md R141), for at most `fuel` passes: the final `r0` and `t0`. `t0` and `t1` are the
internal signed integers. -/
def invLoop : (fuel : Nat) → (r0 r1 : Nat) → (t0 t1 : Int) → Nat × Int
  | 0, r0, _, t0, _ => (r0, t0)
  | fuel + 1, r0, r1, t0, t1 =>
    if r1 = 0 then (r0, t0)
    else invLoop fuel r1 (r0 - r0 / r1 * r1) t1 (t0 - (r0 / r1 : Nat) * t1)

/-- The extended Euclidean algorithm for `n > 0` (42_gcd.md R141): the inverse of `a` modulo `n` in `[0, n)`, or `none`
when `r0 = gcd(a, n)` is not 1. `r1` falls at each pass, so `n + 1` passes are enough (log 12). -/
def modInverse (a n : Nat) : Option Nat :=
  match invLoop (n + 1) n (a % n) 0 1 with
  | (r0, t0) => if r0 = 1 then some (t0 % (n : Int)).toNat else none

/-- The loop of the exponentiation engine over the `k` low bits of `e`, highest first (43_powmod.md R151). -/
def powLoop (b' e m : Nat) : (k acc : Nat) → Nat
  | 0, acc => acc
  | k + 1, acc =>
    if e.testBit k then powLoop b' e m k (acc * acc % m * b' % m) else powLoop b' e m k (acc * acc % m)

/-- `powmod(b, e, m)` for `m >= 1` by left-to-right square-and-multiply (43_powmod.md R151); it is `b^e mod m` (R152). -/
def powmod (b e m : Nat) : Nat := powLoop (b % m) e m (bitlen e) (1 % m)

/-- The pair `(s, r)` with `m = 2^s * r` and `r` odd, for `m > 0` below `2^fuel` (44_isprime.md R162). -/
def oddPart : (fuel m : Nat) → Nat × Nat
  | 0, m => (0, m)
  | fuel + 1, m => if m % 2 = 0 then ((oddPart fuel (m / 2)).1 + 1, (oddPart fuel (m / 2)).2) else (0, m)

/-- `decompose(m)`, with the bit length of `m` as the bound on the trailing zeros (44_isprime.md R162). -/
def decompose (m : Nat) : Nat × Nat := oddPart (bitlen m) m

/-- The outcome of one Miller-Rabin round (44_isprime.md R161). -/
inductive Verdict where
  | composite
  | inconclusive
  deriving DecidableEq, Repr

/-- The squaring loop of a round with `k = s - j` squarings left, and the test after it (44_isprime.md R161): a 1 reached
here proves compositeness, and so does the end without `n - 1` (90_conflicts.md C7). -/
def squareLoop (n : Nat) : (k y : Nat) → Verdict
  | 0, y => if y = n - 1 then .inconclusive else .composite
  | k + 1, y =>
    if y = n - 1 then .inconclusive
    else if y * y % n = 1 then .composite
    else squareLoop n k (y * y % n)

/-- `mr_round(n, s, r, a)` (44_isprime.md R161); the loop starts at `j = 1`, so `s - 1` squarings are left. -/
def mrRound (n s r a : Nat) : Verdict :=
  if powmod a r n = 1 ∨ powmod a r n = n - 1 then .inconclusive else squareLoop n (s - 1) (powmod a r n)

/-- The candidate `c <- v | 2^(bits - 1) | 1` (45_makeprime.md R171). -/
def candidateOf (bits v : Nat) : Nat := v ||| 2 ^ (bits - 1) ||| 1

end Sys2Proof.Machine
end

