-- ==== Sys2Proof/Config.lean ====
section
/-! DEFINITION. What an implementation fixes (00_scope.md R7), and the values the spec leaves open: the random generator
(41_random.md R130) and the word an operand register reads as while a command runs (20_memory.md R60). -/

namespace Sys2Proof.Config

/-- `ID_VALUE`, the ASCII bytes "NTA1" (00_scope.md R7, 10_state.md R24). -/
def idValue : Word := 0x4E544131#32

/-- `CFG.REV`, the revision of the command set (10_state.md R25). -/
def revision : Byte := 0x01#8

/-- `NREG`, the number of operand registers (00_scope.md R7). -/
def nreg : Nat := 16

/-- The OPEN numeric parameters of 00_scope.md R7: `words` is WORDS = W / 32, `base` is NTA_BASE.
DESIGN CHOICE (log 1): State carries them, so that a claim about every state is a claim for every W and every base. -/
structure Params where
  words : Nat
  base : Nat
  deriving DecidableEq, Repr

/-- W, the width in bits of an operand register (00_scope.md R7). -/
def Params.width (p : Params) : Nat := 32 * p.words

/-- BYTES = W / 8 (00_scope.md R7). -/
def Params.bytes (p : Params) : Nat := 4 * p.words

/-- The parameters the reset state of the model is given: W = 64, the least legal width and the one the vectors of
95_test_vectors.md use, and base 0. DESIGN CHOICE (log 1). -/
def defaultParams : Params := { words := 2, base := 0 }

/-- A value of the opaque type RngState (41_random.md R130), named by a number.
DESIGN CHOICE (log 2): the spec says nothing of the type; a number names any state of a generator that has countably many. -/
structure RngState where
  code : Nat
  deriving DecidableEq, Repr, Inhabited

/-- The three configuration functions of 41_random.md R130. The range laws are imposed where a draw is made
(`Machine.drawB`, `Machine.drawM`), so nothing is asked of the functions here (log 2). -/
structure Generator where
  seed : Nat → RngState
  drawB : RngState → Nat → Nat × RngState
  drawM : RngState → Nat → Nat × RngState
  deriving Inhabited

/-- RNG_SEED, RNG_DRAWB and RNG_DRAWM of this device: OPEN, so nothing can be proved of them but the range laws
(41_random.md R130, 93_implementation_defined.md row 3; log 2). -/
opaque generator : Generator

/-- The word that the n-th read of an operand register while BUSY = 1 returns: any 32-bit value (20_memory.md R60,
93_implementation_defined.md row 6; log 5). -/
opaque busyRead : Nat → Word

end Sys2Proof.Config
end

