-- ==== Sys2Proof/Machine/State.lean ====
section
/-! DEFINITION. The state of one CSE13S-NTA (10_state.md R20), as plain data, with what the model adds to it (the
parameters, and the bus: `Params`, `Env`), and the state after reset (10_state.md R42). -/

namespace Sys2Proof.Machine

/-- The device has no fault: a command that cannot complete ends with an error code, and a bus error is answered on the
bus; both are next states (60_exceptions.md R203, 20_memory.md R56). No constructor, so no step answers a fault. -/
inductive Fault where
  deriving DecidableEq, Repr

/-- Why the model has no meaning for an instruction. -/
inductive Refusal where
  /-- Raised by an arm of `exec` whose instruction has no meaning yet; no arm of this model raises it. Safe: the run
  stops. -/
  | notModelled (mnemonic : String)
  deriving DecidableEq, Repr

/-- The error codes of 60_exceptions.md R202; codes 11 to 15 are never produced, so they have no name here. -/
inductive ErrCode where
  | ok
  | illegal
  | overflow
  | underflow
  | divZero
  | noInv
  | domain
  | badArg
  | noSeed
  | noPrime
  | aborted
  deriving DecidableEq, Repr

/-- The stored fields of CTRL (10_state.md R26); ABORT and SRST are actions and hold nothing. -/
structure Ctrl where
  ie : Bool
  sentinel : Byte
  deriving DecidableEq, Repr

/-- The stored fields of STATUS (10_state.md R29). BUSY is the controller phase (R30) and is not stored a second time. -/
structure Status where
  done : Bool
  err : ErrCode
  res : Bool
  eq : Bool
  lt : Bool
  sm : Bool
  ovr : Bool
  berr : Bool
  deriving DecidableEq, Repr

/-- The random-source state (10_state.md R39). RNGSTAT.SEEDED is read off it (R38). -/
inductive Rng where
  | unseeded
  | seeded (σ : Config.RngState)
  deriving DecidableEq, Repr

/-- How far the running command's algorithm has come, at a micro-step boundary (10_state.md R40, 60_exceptions.md R207). -/
inductive Progress where
  /-- No micro-step of the command has been taken yet; the only progress of a command of one micro-step. -/
  | start
  /-- ISPRIME at the head of its loop: `n - 1 = 2^s * r`, round index `i` (44_isprime.md R160). -/
  | primeLoop (s r i : Nat)
  /-- MAKEPRIME at the head of its loop, `t` candidates drawn (45_makeprime.md R170). -/
  | candidate (t : Nat)
  /-- MAKEPRIME before round `i` on candidate `c`, with `c - 1 = 2^s * r`, `t` candidates drawn (45_makeprime.md R170). -/
  | candidateRound (t c s r i : Nat)
  deriving DecidableEq, Repr

/-- What the controller holds while Busy (10_state.md R40), latched at acceptance (60_exceptions.md R201). -/
structure Running where
  cw : Word
  arg : Word
  /-- Each register the opcode reads, with its value at acceptance (R201, 70_reset_and_hazards.md R241). -/
  snapshot : List (Reg × Nat)
  sentinel : Byte
  maxtry : Word
  progress : Progress
  abortReq : Bool
  deriving DecidableEq, Repr

/-- The controller state (10_state.md R40): Idle with nothing latched, or Busy. -/
inductive Ctl where
  | idle
  | busy (r : Running)
  deriving DecidableEq, Repr

/-- One access of the host to a bus address, with its size in bytes (20_memory.md R52, R53, R56). The data of a write
matters only when the access is an admitted one, of 4 bytes, so it is a word (log 17). -/
inductive Access where
  | read (addr size : Nat)
  | write (addr size : Nat) (data : Word)
  deriving DecidableEq, Repr

/-- What happens next (00_scope.md R12): a host access, a micro-step of the controller, or the reset input
(70_reset_and_hazards.md R230). DESIGN CHOICE (log 3): a list of these in State chooses the interleaving. -/
inductive Event where
  | access (a : Access)
  | micro
  | powerOn
  deriving DecidableEq, Repr

/-- What the device last answered on the bus (20_memory.md R52, R53, R56; log 4). -/
inductive Resp where
  /-- No access has been answered yet. -/
  | none
  /-- The data of an admitted read. -/
  | data (v : Word)
  /-- An admitted write was taken. -/
  | written
  /-- The error response to a read (data 0) or a write that is not an aligned 32-bit access (R56). -/
  | busError
  /-- The address is outside the window: the device does not decode it (R51, log 6). -/
  | notDecoded
  deriving DecidableEq, Repr

/-- The model's own fields: the events to come, the last answer, and how many free values have been used (logs 3, 4, 5). -/
structure Env where
  events : List Event
  resp : Resp
  drawn : Nat
  deriving DecidableEq, Repr

/-- The architectural state (10_state.md R20) with the parameters and the bus. ID, CFG, STATUS.BUSY, RNGSTAT and IRQ are
functions of it (R24, R25, R30, R38, R41; log 9). -/
structure State where
  par : Config.Params
  x : Vector Nat 16
  ctrl : Ctrl
  status : Status
  arg : Word
  cmd : Word
  reslen : Word
  maxtry : Word
  trycnt : Word
  rndcnt : Word
  rng : Rng
  ctl : Ctl
  env : Env
  deriving DecidableEq, Repr

/-- CTRL after reset: 0x0000FF00 (10_state.md R42). -/
def Ctrl.reset : Ctrl := { ie := false, sentinel := 0xFF#8 }

/-- STATUS after reset: 0 (10_state.md R42). -/
def Status.reset : Status :=
  { done := false, err := .ok, res := false, eq := false, lt := false, sm := false, ovr := false, berr := false }

/-- Nothing is to come, nothing has been answered, no free value has been used: DESIGN CHOICE (logs 3, 4, 5). -/
def Env.initial : Env := { events := [], resp := .none, drawn := 0 }

/-- Every piece of state at the value of the table of 10_state.md R42, for a device with the given parameters on a bus in
the given condition. -/
def State.resetOn (p : Config.Params) (e : Env) : State :=
  { par := p
    x := Vector.replicate 16 0
    ctrl := Ctrl.reset
    status := Status.reset
    arg := 0#32
    cmd := 0#32
    reslen := 0#32
    maxtry := 0#32
    trycnt := 0#32
    rndcnt := 0#32
    rng := .unseeded
    ctl := .idle
    env := e }

/-- The machine right after a power-on reset (10_state.md R42, 70_reset_and_hazards.md R230), with the default parameters
(log 1). -/
def State.reset : State := State.resetOn Config.defaultParams Env.initial

end Sys2Proof.Machine
end

