-- ==== Sys2Proof/Machine/Flags.lean ====
section
/-! DEFINITION. STATUS and CTRL as words (10_state.md R26, R29), the flags and who writes them (R32), the error codes
(60_exceptions.md R202), the values computed from state (R24, R25, R30, R38, R41), and write-1-to-clear. -/

namespace Sys2Proof.Machine

/-- The code of an error, as STATUS.ERR holds it (60_exceptions.md R202). -/
def ErrCode.code : ErrCode → BitVec 4
  | .ok => 0#4
  | .illegal => 1#4
  | .overflow => 2#4
  | .underflow => 3#4
  | .divZero => 4#4
  | .noInv => 5#4
  | .domain => 6#4
  | .badArg => 7#4
  | .noSeed => 8#4
  | .noPrime => 9#4
  | .aborted => 10#4

/-- BUSY = 1 exactly while the controller phase is Busy (10_state.md R30). -/
def State.isBusy (s : State) : Bool :=
  match s.ctl with
  | .idle => false
  | .busy _ => true

/-- SEEDED reads 1 when `rng` is Seeded (10_state.md R38). -/
def Rng.isSeeded : Rng → Bool
  | .unseeded => false
  | .seeded _ => true

/-- `ctl.abortReq`, 0 while Idle (10_state.md R40, 60_exceptions.md R208). -/
def State.abortReq (s : State) : Bool :=
  match s.ctl with
  | .idle => false
  | .busy r => r.abortReq

/-- The interrupt line, `CTRL.IE and STATUS.DONE` at every instant (10_state.md R41, 60_exceptions.md R211). -/
def State.irq (s : State) : Bool := s.ctrl.ie && s.status.done

/-- CFG: REV, NREG, WORDS (10_state.md R25). -/
def State.cfgWord (s : State) : Word :=
  Config.revision ++ BitVec.ofNat 8 Config.nreg ++ BitVec.ofNat 16 s.par.words

/-- CTRL as it reads: the action bits and the reserved bits are 0 (10_state.md R26). -/
def State.ctrlWord (s : State) : Word :=
  0#16 ++ s.ctrl.sentinel ++ 0#7 ++ BitVec.ofBool s.ctrl.ie

/-- STATUS as it reads (10_state.md R29). -/
def State.statusWord (s : State) : Word :=
  0#18 ++ BitVec.ofBool s.status.berr ++ BitVec.ofBool s.status.ovr ++ BitVec.ofBool s.status.sm
    ++ BitVec.ofBool s.status.lt ++ BitVec.ofBool s.status.eq ++ BitVec.ofBool s.status.res ++ s.status.err.code
    ++ 0#2 ++ BitVec.ofBool s.status.done ++ BitVec.ofBool s.isBusy

/-- RNGSTAT as it reads (10_state.md R38). -/
def State.rngstatWord (s : State) : Word := 0#31 ++ BitVec.ofBool s.rng.isSeeded

/-- A write of STATUS clears each of DONE, OVR and BERR whose written bit is 1, and nothing else (10_state.md R29). -/
def Status.clearWritten (st : Status) (v : Word) : Status :=
  { st with
    done := st.done && !v.getLsbD 1
    ovr := st.ovr && !v.getLsbD 12
    berr := st.berr && !v.getLsbD 13 }

/-- The flags CMP writes (10_state.md R32, 40_bigint.md R107). -/
def Status.compared (st : Status) (a b : Nat) : Status := { st with eq := decide (a = b), lt := decide (a < b) }

/-- The flag ISPRIME writes (10_state.md R32, 44_isprime.md R160). -/
def Status.withRes (st : Status) (v : Bool) : Status := { st with res := v }

/-- The flag DECRYPT writes: the dropped leading byte differs from the latched SENTINEL (10_state.md R32,
46_cipher.md R183). -/
def Status.withSm (st : Status) (lead : Nat) (sentinel : Byte) : Status :=
  { st with sm := decide (lead ≠ sentinel.toNat) }

/-- STATUS at acceptance: DONE and ERR cleared (60_exceptions.md R201, R210, 10_state.md R29, R31; ERR-11 of
95_test_vectors.md).
DESIGN CHOICE (log 19): 70_reset_and_hazards.md R242 says instead that ERR holds the previous command's value until commit,
and no ruling of spec/ settles it. -/
def Status.accepted (st : Status) : Status := { st with done := false, err := .ok }

/-- STATUS at completion: DONE set, ERR the code (60_exceptions.md R203, R204). -/
def Status.completed (st : Status) (e : ErrCode) : Status := { st with done := true, err := e }

end Sys2Proof.Machine
end

