-- ==== Sys2Proof/Machine/Operands.lean ====
section
/-! DEFINITION. What a command reads, all of it latched at acceptance (00_scope.md R11, 70_reset_and_hazards.md R241): the
source registers, and the argument word as each opcode interprets it (30_encoding.md R74). No argument is sign-extended,
scaled or shifted. -/

namespace Sys2Proof.Machine

/-- `x[ρ]` at acceptance, for a register the command reads (70_reset_and_hazards.md R241). -/
def Running.src (r : Running) (ρ : Reg) : Nat := (r.snapshot.lookup ρ).getD 0

/-- LDI: `imm = zext_W(arg[31:0])` (30_encoding.md R74). -/
def Running.imm (r : Running) : Nat := r.arg.toNat

/-- RANDB: `bits = arg[31:0]`. -/
def Running.drawBits (r : Running) : Nat := r.arg.toNat

/-- ISPRIME: `iters = arg[31:0]`. -/
def Running.iters (r : Running) : Nat := r.arg.toNat

/-- MAKEPRIME: `bits = arg[15:0]`. -/
def Running.primeBits (r : Running) : Nat := (r.arg.extractLsb' 0 16).toNat

/-- MAKEPRIME: `iters = arg[31:16]`. -/
def Running.primeIters (r : Running) : Nat := (r.arg.extractLsb' 16 16).toNat

/-- ENCRYPT: `L = arg[31:0]`. -/
def Running.payloadLen (r : Running) : Nat := r.arg.toNat

/-- The argument word of MAKEPRIME as the assembler writes it, `(iters << 16) | bits` (30_encoding.md R78). -/
def primeArg (bits iters : Nat) : Word := BitVec.ofNat 16 iters ++ BitVec.ofNat 16 bits

end Sys2Proof.Machine
end

