-- ==== Sys2Proof/Machine/Ops.lean ====
section
/-! DEFINITION. The operations the meanings share: operand registers (10_state.md R21), the draws (41_random.md R130), the
lifecycle of a command (acceptance, commit, raise, abort request: 60_exceptions.md), and reset (70_reset_and_hazards.md).
`State.raise` is this hardware's one way of taking an exception: it saves no state and transfers no control, it leaves a
cause for the host (60_exceptions.md R203, R209), and there is no return from it (R210). -/

namespace Sys2Proof.Machine

/-- The outcome of a micro-step or of an access. -/
abbrev Outcome := Host.Outcome State Fault Refusal

/-- `x[ρ]` (00_scope.md R10). -/
def State.readReg (s : State) (ρ : Reg) : Nat := s.x[ρ]

/-- `x[ρ] <- v` (00_scope.md R10). -/
def State.writeReg (s : State) (ρ : Reg) (v : Nat) : State := { s with x := s.x.set ρ v }

/-- W of this device (00_scope.md R7). -/
def State.width (s : State) : Nat := s.par.width

/-- BYTES of this device (00_scope.md R7). -/
def State.bytes (s : State) : Nat := s.par.bytes

/-- The end of a command, successful or not: ERR, BUSY 0, DONE 1, phase Idle, abortReq 0 (60_exceptions.md R203, R204). -/
def State.complete (s : State) (e : ErrCode) : State := { s with status := s.status.completed e, ctl := .idle }

/-- `commit`, after the writes of the command (60_exceptions.md R204). -/
def State.commit (s : State) : State := s.complete .ok

/-- `raise E`: no register, flag, RESLEN or counter is written, and the draws made stay made (60_exceptions.md R203). -/
def State.raise (s : State) (e : ErrCode) : State := s.complete e

/-- Commit with one operand register written. -/
def State.commitReg (s : State) (rd : Reg) (v : Nat) : State := (s.writeReg rd v).commit

/-- The running command reaches a micro-step boundary (60_exceptions.md R207). -/
def State.setProgress (s : State) (r : Running) (p : Progress) : State := { s with ctl := .busy { r with progress := p } }

/-- `rng <- v` (41_random.md R130). -/
def State.setRng (s : State) (v : Rng) : State := { s with rng := v }

/-- One more Miller-Rabin round has started (10_state.md R37). -/
def State.countRound (s : State) : State := { s with rndcnt := s.rndcnt + 1#32 }

/-- TRYCNT holds the number of candidates drawn, modulo 2^32 (10_state.md R36, 45_makeprime.md R170). -/
def State.setTries (s : State) (t : Nat) : State := { s with trycnt := BitVec.ofNat 32 t }

/-- `DrawB(bits)`: a value in `[0, 2^bits)` and the next generator state (41_random.md R130). Reducing what the
configuration function returns imposes the range law and leaves a function that keeps it as it is (log 2). -/
def drawB (g : Config.Generator) (σ : Config.RngState) (bits : Nat) : Nat × Config.RngState :=
  ((g.drawB σ bits).1 % 2 ^ bits, (g.drawB σ bits).2)

/-- `DrawM(bound)`, `bound > 0`: a value in `[0, bound)` and the next generator state (41_random.md R130; log 2). -/
def drawM (g : Config.Generator) (σ : Config.RngState) (bound : Nat) : Nat × Config.RngState :=
  ((g.drawM σ bound).1 % bound, (g.drawM σ bound).2)

/-- The running command, if there is one: a micro-step of an Idle controller changes nothing (20_memory.md R58,
70_reset_and_hazards.md R233; log 7). -/
def State.whileBusy (s : State) (k : Running → Outcome) : Outcome :=
  match s.ctl with
  | .idle => .next s
  | .busy r => k r

/-- The registers the word's opcode reads, with their values now (60_exceptions.md R201); none for a reserved opcode
(log 18). -/
def State.snapshotFor (s : State) (cw : Word) : List (Reg × Nat) :=
  match decode cw with
  | .ok i => i.sources.map fun ρ => (ρ, s.readReg ρ)
  | .error _ => []

/-- The counters acceptance clears (60_exceptions.md R201): RNDCNT for ISPRIME and MAKEPRIME, TRYCNT for MAKEPRIME. -/
def clearsRounds (cw : Word) : Bool := opField cw == 0x11#6 || opField cw == 0x12#6

/-- See `clearsRounds`. -/
def clearsTries (cw : Word) : Bool := opField cw == 0x12#6

/-- What acceptance latches (60_exceptions.md R201, 70_reset_and_hazards.md R241). -/
def State.latch (s : State) (cw : Word) : Running :=
  { cw := cw
    arg := s.arg
    snapshot := s.snapshotFor cw
    sentinel := s.ctrl.sentinel
    maxtry := s.maxtry
    progress := .start
    abortReq := false }

/-- Acceptance of a command word (60_exceptions.md R201). No check is made: a reserved opcode is accepted too. RESLEN and
the flags keep the previous command's values until commit (70_reset_and_hazards.md R242); ERR does not (log 19). -/
def State.accept (s : State) (cw : Word) : State :=
  { s with
    cmd := cw
    status := s.status.accepted
    rndcnt := if clearsRounds cw then 0#32 else s.rndcnt
    trycnt := if clearsTries cw then 0#32 else s.trycnt
    ctl := .busy (s.latch cw) }

/-- A host write of CTRL.ABORT: a request while Busy, nothing while Idle (60_exceptions.md R208). -/
def State.requestAbort (s : State) : State :=
  match s.ctl with
  | .idle => s
  | .busy r => { s with ctl := .busy { r with abortReq := true } }

/-- The state change of a power-on reset and of a soft reset (70_reset_and_hazards.md R230, R231). The parameters are no
state, and the bus is not the device's (log 11). -/
def State.doReset (s : State) : State := State.resetOn s.par s.env

/-- STATUS.OVR <- 1 (60_exceptions.md R214). -/
def State.setOvr (s : State) : State := { s with status := { s.status with ovr := true } }

/-- STATUS.BERR <- 1 (20_memory.md R56). -/
def State.setBerr (s : State) : State := { s with status := { s.status with berr := true } }

/-- The device's answer on the bus (20_memory.md R52, R53). -/
def State.answer (s : State) (v : Resp) : State := { s with env := { s.env with resp := v } }

end Sys2Proof.Machine
end

