-- ==== Sys2Proof/Machine/BigInt.lean ====
section
/-! DEFINITION. The big-integer unit and the modular multiplier (40_bigint.md): NOP, LDI, MOV, ADD, SUB, MUL, DIVMOD, CMP,
BITLEN, MODMUL. One micro-step each; exact results, an error where one does not fit (R110). -/

namespace Sys2Proof.Machine

/-- A result that must be written and is at least 2^W raises OVERFLOW (40_bigint.md R110). -/
def State.commitFitting (s : State) (rd : Reg) (v : Nat) : State :=
  if 2 ^ s.width ≤ v then s.raise .overflow else s.commitReg rd v

/-- NOP (40_bigint.md R100). -/
def execNop (s : State) : Outcome := s.whileBusy fun _ => .next s.commit

/-- LDI rd, #imm (40_bigint.md R101). -/
def execLdi (rd : Reg) (s : State) : Outcome := s.whileBusy fun r => .next (s.commitReg rd r.imm)

/-- MOV rd, rs1 (40_bigint.md R102). -/
def execMov (rd rs1 : Reg) (s : State) : Outcome := s.whileBusy fun r => .next (s.commitReg rd (r.src rs1))

/-- ADD rd, rs1, rs2 (40_bigint.md R103). -/
def execAdd (rd rs1 rs2 : Reg) (s : State) : Outcome :=
  s.whileBusy fun r => .next (s.commitFitting rd (r.src rs1 + r.src rs2))

/-- SUB rd, rs1, rs2 (40_bigint.md R104). -/
def execSub (rd rs1 rs2 : Reg) (s : State) : Outcome :=
  s.whileBusy fun r =>
    if r.src rs1 < r.src rs2 then .next (s.raise .underflow)
    else .next (s.commitReg rd (r.src rs1 - r.src rs2))

/-- MUL rd, rs1, rs2 (40_bigint.md R105). -/
def execMul (rd rs1 rs2 : Reg) (s : State) : Outcome :=
  s.whileBusy fun r => .next (s.commitFitting rd (r.src rs1 * r.src rs2))

/-- DIVMOD rd, rs1, rs2, rr: the quotient is written first, so with `rd = rr` the remainder stays (40_bigint.md R106). -/
def execDivmod (rd rs1 rs2 rr : Reg) (s : State) : Outcome :=
  s.whileBusy fun r =>
    if r.src rs2 = 0 then .next (s.raise .divZero)
    else .next ((s.writeReg rd (r.src rs1 / r.src rs2)).commitReg rr (r.src rs1 % r.src rs2))

/-- CMP rs1, rs2 (40_bigint.md R107). -/
def execCmp (rs1 rs2 : Reg) (s : State) : Outcome :=
  s.whileBusy fun r => .next ({ s with status := s.status.compared (r.src rs1) (r.src rs2) } : State).commit

/-- BITLEN rd, rs1 (40_bigint.md R108). -/
def execBitlen (rd rs1 : Reg) (s : State) : Outcome := s.whileBusy fun r => .next (s.commitReg rd (bitlen (r.src rs1)))

/-- MODMUL rd, rs1, rs2, rs3: the exact product, reduced by exact division (40_bigint.md R109, R112). -/
def execModmul (rd rs1 rs2 rs3 : Reg) (s : State) : Outcome :=
  s.whileBusy fun r =>
    if r.src rs3 = 0 then .next (s.raise .divZero)
    else .next (s.commitReg rd (r.src rs1 * r.src rs2 % r.src rs3))

end Sys2Proof.Machine
end

