-- ==== Sys2Proof/Machine/Cipher.lean ====
section
/-! DEFINITION. The SS block wrapper (46_cipher.md): BLKSZ, ENCRYPT, DECRYPT. One micro-step each. -/

namespace Sys2Proof.Machine

/-- BLKSZ rd, rs1 (46_cipher.md R180). -/
def execBlksz (rd rs1 : Reg) (s : State) : Outcome :=
  s.whileBusy fun r =>
    if bitlen (r.src rs1) = 0 then .next (s.raise .badArg)
    else .next (s.commitReg rd ((bitlen (r.src rs1) - 1) / 8))

/-- The block integer `m <- S * 2^(8*L) + P`: the sentinel byte before an `L`-byte payload (46_cipher.md R182). -/
def blockInt (sentinel : Byte) (len payload : Nat) : Nat := sentinel.toNat * 2 ^ (8 * len) + payload

/-- ENCRYPT rd, rs1, rs2, #L, the checks in the order of 46_cipher.md R182: the exponent and the modulus are both `x[rs2]`. -/
def execEncrypt (rd rs1 rs2 : Reg) (s : State) : Outcome :=
  s.whileBusy fun r =>
    if s.bytes - 1 < r.payloadLen then .next (s.raise .badArg)
    else if 2 ^ (8 * r.payloadLen) ≤ r.src rs1 then .next (s.raise .badArg)
    else if blockInt r.sentinel r.payloadLen (r.src rs1) ≤ 1 then .next (s.raise .domain)
    else if r.src rs2 = 0 then .next (s.raise .divZero)
    else .next (s.commitReg rd (powmod (blockInt r.sentinel r.payloadLen (r.src rs1)) (r.src rs2) (r.src rs2)))

/-- The dropped leading byte of the export of `m > 0` (46_cipher.md R183). -/
def leadByte (m : Nat) : Nat := m / 2 ^ (8 * (bytelen m - 1))

/-- The remaining bytes of the export of `m > 0`, as an integer (46_cipher.md R183). -/
def payloadOf (m : Nat) : Nat := m % 2 ^ (8 * (bytelen m - 1))

/-- Commit of DECRYPT: `x[rd]`, RESLEN and SM (46_cipher.md R183). -/
def State.commitPayload (s : State) (rd : Reg) (m : Nat) (sentinel : Byte) : State :=
  ({ s.writeReg rd (payloadOf m) with
      reslen := BitVec.ofNat 32 (bytelen m - 1)
      status := s.status.withSm (leadByte m) sentinel } : State).commit

/-- DECRYPT rd, rs1, rs2, rs3 (46_cipher.md R183). -/
def execDecrypt (rd rs1 rs2 rs3 : Reg) (s : State) : Outcome :=
  s.whileBusy fun r =>
    if r.src rs3 = 0 then .next (s.raise .divZero)
    else if powmod (r.src rs1) (r.src rs2) (r.src rs3) = 0 then .next (s.raise .domain)
    else .next (s.commitPayload rd (powmod (r.src rs1) (r.src rs2) (r.src rs3)) r.sentinel)

end Sys2Proof.Machine
end

