-- ==== Sys2Proof/Machine/GcdUnit.lean ====
section
/-! DEFINITION. The GCD unit (42_gcd.md): GCD and MODINV. One micro-step each; the whole iteration runs inside it. -/

namespace Sys2Proof.Machine

/-- GCD rd, rs1, rs2 (42_gcd.md R140). -/
def execGcd (rd rs1 rs2 : Reg) (s : State) : Outcome :=
  s.whileBusy fun r => .next (s.commitReg rd (euclid (r.src rs1) (r.src rs2)))

/-- MODINV rd, rs1, rs2 (42_gcd.md R141). -/
def execModinv (rd rs1 rs2 : Reg) (s : State) : Outcome :=
  s.whileBusy fun r =>
    if r.src rs2 = 0 then .next (s.raise .divZero)
    else
      match modInverse (r.src rs1) (r.src rs2) with
      | none => .next (s.raise .noInv)
      | some v => .next (s.commitReg rd v)

end Sys2Proof.Machine
end

