-- ==== Sys2Proof/Machine/IsPrime.lean ====
section
/-! DEFINITION. The Miller-Rabin controller (44_isprime.md): ISPRIME, one micro-step for the checks and one for each loop
pass (R160). RNDCNT was cleared at acceptance (60_exceptions.md R201). -/

namespace Sys2Proof.Machine

/-- Commit of a verdict: `x[rd]` and RES hold it (44_isprime.md R160). -/
def State.commitVerdict (s : State) (rd : Reg) (v : Bool) : State :=
  ({ s.writeReg rd v.toNat with status := s.status.withRes v } : State).commit

/-- The witness `a <- 2 + DrawM(n - 3)` and the next generator state (44_isprime.md R163). -/
def drawWitness (g : Config.Generator) (σ : Config.RngState) (n : Nat) : Nat × Config.RngState :=
  (2 + (drawM g σ (n - 3)).1, (drawM g σ (n - 3)).2)

/-- The first micro-step after the NOSEED check: the trivial cases, or the decomposition and the loop's first boundary
(44_isprime.md R160). -/
def isprimeFirst (rd : Reg) (n : Nat) (r : Running) (s : State) : State :=
  if n ≤ 1 then s.commitVerdict rd false
  else if n = 2 ∨ n = 3 then s.commitVerdict rd true
  else s.setProgress r (.primeLoop (decompose (n - 1)).1 (decompose (n - 1)).2 0)

/-- One loop pass: the end of the rounds, or one round (44_isprime.md R160, R161). -/
def isprimePass (g : Config.Generator) (rd : Reg) (n : Nat) (r : Running) (σ : Config.RngState) (sh odd i : Nat)
    (s : State) : State :=
  if i = r.iters then s.commitVerdict rd true
  else
    match mrRound n sh odd (drawWitness g σ n).1 with
    | .composite => (s.countRound.setRng (.seeded (drawWitness g σ n).2)).commitVerdict rd false
    | .inconclusive => (s.countRound.setRng (.seeded (drawWitness g σ n).2)).setProgress r (.primeLoop sh odd (i + 1))

/-- One micro-step of ISPRIME for a given generator. The NOSEED check stands in the first micro-step; `rng` cannot become
Unseeded before a later one (log 7). -/
def isprimeStep (g : Config.Generator) (rd rs1 : Reg) (s : State) : Outcome :=
  s.whileBusy fun r =>
    match s.rng with
    | .unseeded => .next (s.raise .noSeed)
    | .seeded σ =>
      match r.progress with
      | .primeLoop sh odd i => .next (isprimePass g rd (r.src rs1) r σ sh odd i s)
      | .start => .next (isprimeFirst rd (r.src rs1) r s)
      | .candidate _ => .next (isprimeFirst rd (r.src rs1) r s)
      | .candidateRound _ _ _ _ _ => .next (isprimeFirst rd (r.src rs1) r s)

/-- ISPRIME rd, rs1, #iters (44_isprime.md R160). -/
def execIsprime (rd rs1 : Reg) (s : State) : Outcome := isprimeStep Config.generator rd rs1 s

end Sys2Proof.Machine
end

