-- ==== Sys2Proof/Machine/MakePrime.lean ====
section
/-! DEFINITION. The prime-candidate generator (45_makeprime.md): MAKEPRIME, one micro-step for the checks, one for each
candidate's draw, one for each round, and one for a NOPRIME raise (60_exceptions.md R207). TRYCNT and RNDCNT were cleared at
acceptance (R201). -/

namespace Sys2Proof.Machine

/-- The first micro-step after the NOSEED check (45_makeprime.md R170, R173). -/
def makeprimeFirst (r : Running) (s : State) : State :=
  if r.primeBits < 2 ∨ s.width < r.primeBits then s.raise .badArg else s.setProgress r (.candidate 0)

/-- The micro-step that draws candidate number `t + 1`, or raises NOPRIME at the latched cap (45_makeprime.md R170, R171,
R172). The candidate 3 needs no round; with `iters = 0` none is run. -/
def makeprimeDraw (g : Config.Generator) (rd : Reg) (r : Running) (σ : Config.RngState) (t : Nat) (s : State) : State :=
  if r.maxtry ≠ 0#32 ∧ t = r.maxtry.toNat then s.raise .noPrime
  else
    let v := drawB g σ r.primeBits
    let c := candidateOf r.primeBits v.1
    let s' := (s.setRng (.seeded v.2)).setTries (t + 1)
    if c = 2 ∨ c = 3 ∨ r.primeIters = 0 then s'.commitReg rd c
    else s'.setProgress r (.candidateRound (t + 1) c (decompose (c - 1)).1 (decompose (c - 1)).2 0)

/-- The micro-step of one round on candidate `c`: it is rejected, it goes to its next round, or it is the result
(45_makeprime.md R170). -/
def makeprimeRound (g : Config.Generator) (rd : Reg) (r : Running) (σ : Config.RngState) (t c sh odd i : Nat)
    (s : State) : State :=
  let w := drawWitness g σ c
  let s' := s.countRound.setRng (.seeded w.2)
  match mrRound c sh odd w.1 with
  | .composite => s'.setProgress r (.candidate t)
  | .inconclusive =>
    if i + 1 < r.primeIters then s'.setProgress r (.candidateRound t c sh odd (i + 1)) else s'.commitReg rd c

/-- One micro-step of MAKEPRIME for a given generator. The NOSEED check stands in the first micro-step; `rng` cannot become
Unseeded before a later one (log 7). -/
def makeprimeStep (g : Config.Generator) (rd : Reg) (s : State) : Outcome :=
  s.whileBusy fun r =>
    match s.rng with
    | .unseeded => .next (s.raise .noSeed)
    | .seeded σ =>
      match r.progress with
      | .candidate t => .next (makeprimeDraw g rd r σ t s)
      | .candidateRound t c sh odd i => .next (makeprimeRound g rd r σ t c sh odd i s)
      | .start => .next (makeprimeFirst r s)
      | .primeLoop _ _ _ => .next (makeprimeFirst r s)

/-- MAKEPRIME rd, #bits, #iters (45_makeprime.md R170). -/
def execMakeprime (rd : Reg) (s : State) : Outcome := makeprimeStep Config.generator rd s

end Sys2Proof.Machine
end

