-- ==== Sys2Proof/Machine/PowMod.lean ====
section
/-! DEFINITION. The modular-exponentiation engine (43_powmod.md): POWMOD, in one micro-step. -/

namespace Sys2Proof.Machine

/-- POWMOD rd, rs1, rs2, rs3 (43_powmod.md R150). -/
def execPowmod (rd rs1 rs2 rs3 : Reg) (s : State) : Outcome :=
  s.whileBusy fun r =>
    if r.src rs3 = 0 then .next (s.raise .divZero)
    else .next (s.commitReg rd (powmod (r.src rs1) (r.src rs2) (r.src rs3)))

end Sys2Proof.Machine
end

