-- ==== Sys2Proof/Machine/Random.lean ====
section
/-! DEFINITION. The random source (41_random.md): SEED, RNGCLR, RANDB, RANDM. One micro-step each. The checks come before
the draw, NOSEED first (R136). Each drawing step takes the generator as an argument, so that it can be evaluated on a
given generator; the meaning gives it the device's own, `Config.generator`. -/

namespace Sys2Proof.Machine

/-- The step of SEED for a given generator (41_random.md R132). -/
def seedStep (g : Config.Generator) (rs1 : Reg) (s : State) : Outcome :=
  s.whileBusy fun r => .next (s.setRng (.seeded (g.seed (r.src rs1)))).commit

/-- SEED rs1 (41_random.md R132). -/
def execSeed (rs1 : Reg) (s : State) : Outcome := seedStep Config.generator rs1 s

/-- RNGCLR (41_random.md R133). -/
def execRngclr (s : State) : Outcome := s.whileBusy fun _ => .next (s.setRng .unseeded).commit

/-- The step of RANDB for a given generator (41_random.md R134). -/
def randbStep (g : Config.Generator) (rd : Reg) (s : State) : Outcome :=
  s.whileBusy fun r =>
    match s.rng with
    | .unseeded => .next (s.raise .noSeed)
    | .seeded σ =>
      if s.width < r.drawBits then .next (s.raise .badArg)
      else .next ((s.setRng (.seeded (drawB g σ r.drawBits).2)).commitReg rd (drawB g σ r.drawBits).1)

/-- RANDB rd, #bits (41_random.md R134). -/
def execRandb (rd : Reg) (s : State) : Outcome := randbStep Config.generator rd s

/-- The step of RANDM for a given generator (41_random.md R135). -/
def randmStep (g : Config.Generator) (rd rs1 : Reg) (s : State) : Outcome :=
  s.whileBusy fun r =>
    match s.rng with
    | .unseeded => .next (s.raise .noSeed)
    | .seeded σ =>
      if r.src rs1 = 0 then .next (s.raise .badArg)
      else .next ((s.setRng (.seeded (drawM g σ (r.src rs1)).2)).commitReg rd (drawM g σ (r.src rs1)).1)

/-- RANDM rd, rs1 (41_random.md R135). -/
def execRandm (rd rs1 : Reg) (s : State) : Outcome := randmStep Config.generator rd rs1 s

end Sys2Proof.Machine
end

