-- ==== Sys2Proof/Machine/Dispatch.lean ====
section
/-! DEFINITION. One micro-step of a running command: one arm per command (60_exceptions.md R207), each a direct call of its
meaning. The abort test of the micro-step stands around it, in Machine/Control.lean (R208). -/

namespace Sys2Proof.Machine

/-- One micro-step of the running command, whose decoded word is `i`. -/
def exec (i : Instr) (s : State) : Host.Outcome State Fault Refusal :=
  match i with
  | .nop => Sys2Proof.Machine.execNop s
  | .ldi rd => Sys2Proof.Machine.execLdi rd s
  | .mov rd rs1 => Sys2Proof.Machine.execMov rd rs1 s
  | .add rd rs1 rs2 => Sys2Proof.Machine.execAdd rd rs1 rs2 s
  | .sub rd rs1 rs2 => Sys2Proof.Machine.execSub rd rs1 rs2 s
  | .mul rd rs1 rs2 => Sys2Proof.Machine.execMul rd rs1 rs2 s
  | .divmod rd rs1 rs2 rr => Sys2Proof.Machine.execDivmod rd rs1 rs2 rr s
  | .cmp rs1 rs2 => Sys2Proof.Machine.execCmp rs1 rs2 s
  | .bitlen rd rs1 => Sys2Proof.Machine.execBitlen rd rs1 s
  | .modmul rd rs1 rs2 rs3 => Sys2Proof.Machine.execModmul rd rs1 rs2 rs3 s
  | .seed rs1 => Sys2Proof.Machine.execSeed rs1 s
  | .rngclr => Sys2Proof.Machine.execRngclr s
  | .randb rd => Sys2Proof.Machine.execRandb rd s
  | .randm rd rs1 => Sys2Proof.Machine.execRandm rd rs1 s
  | .gcd rd rs1 rs2 => Sys2Proof.Machine.execGcd rd rs1 rs2 s
  | .modinv rd rs1 rs2 => Sys2Proof.Machine.execModinv rd rs1 rs2 s
  | .powmod rd rs1 rs2 rs3 => Sys2Proof.Machine.execPowmod rd rs1 rs2 rs3 s
  | .isprime rd rs1 => Sys2Proof.Machine.execIsprime rd rs1 s
  | .makeprime rd => Sys2Proof.Machine.execMakeprime rd s
  | .blksz rd rs1 => Sys2Proof.Machine.execBlksz rd rs1 s
  | .encrypt rd rs1 rs2 => Sys2Proof.Machine.execEncrypt rd rs1 rs2 s
  | .decrypt rd rs1 rs2 rs3 => Sys2Proof.Machine.execDecrypt rd rs1 rs2 rs3 s

end Sys2Proof.Machine
end

