-- ==== Sys2Proof/Machine/Window.lean ====
section
/-! DEFINITION. The register window (20_memory.md): which accesses the device decodes, what a host read returns, and what a
host write does. -/

namespace Sys2Proof.Machine

/-- The size of the window in bytes, `0x1000 + 16 * BYTES` (20_memory.md R51). -/
def State.span (s : State) : Nat := 0x1000 + 16 * s.bytes

/-- What a window offset names (20_memory.md R51): an offset of the control page, or word `j` of `x[k]`. -/
inductive Place where
  | control (off : Nat)
  | operand (k : Reg) (j : Nat)
  deriving DecidableEq, Repr

/-- Where an aligned offset inside the window lies (20_memory.md R51, R54): `off = 0x1000 + k * BYTES + 4 * j`. -/
def State.placeOf (s : State) (off : Nat) : Place :=
  if off < 0x1000 then .control off
  else .operand (Fin.ofNat 16 ((off - 0x1000) / s.bytes)) ((off - 0x1000) % s.bytes / 4)

/-- The value of the register at a control-page offset, 0 where it is reserved (10_state.md R23, 20_memory.md R57). -/
def State.controlWord (s : State) (off : Nat) : Word :=
  match off with
  | 0x000 => Config.idValue
  | 0x004 => s.cfgWord
  | 0x008 => s.ctrlWord
  | 0x00C => s.statusWord
  | 0x010 => s.arg
  | 0x014 => s.cmd
  | 0x018 => s.reslen
  | 0x01C => s.maxtry
  | 0x020 => s.trycnt
  | 0x024 => s.rndcnt
  | 0x028 => s.rngstatWord
  | _ => 0#32

/-- Bits `[32*j+31 : 32*j]` of a register value (20_memory.md R54). -/
def wordAt (v j : Nat) : Word := BitVec.ofNat 32 (v / 2 ^ (32 * j))

/-- The value with bits `[32*j+31 : 32*j]` replaced (20_memory.md R53). -/
def setWordAt (v j : Nat) (w : Word) : Nat :=
  v / 2 ^ (32 * (j + 1)) * 2 ^ (32 * (j + 1)) + w.toNat * 2 ^ (32 * j) + v % 2 ^ (32 * j)

/-- A write of CTRL (10_state.md R26): SRST discards the rest; otherwise IE and SENTINEL are stored and then ABORT acts. -/
def State.writeCtrl (s : State) (v : Word) : State :=
  if v.getLsbD 2 then s.doReset
  else
    let s' := { s with ctrl := { ie := v.getLsbD 0, sentinel := v.extractLsb' 8 8 } }
    if v.getLsbD 1 then s'.requestAbort else s'

/-- A write of CMD: acceptance while Idle, an overrun while Busy (10_state.md R27, 60_exceptions.md R214). -/
def State.writeCmd (s : State) (v : Word) : State := if s.isBusy then s.setOvr else s.accept v

/-- A write of an aligned word in the control page (20_memory.md R53); every other offset ignores it (R57). -/
def State.writeControl (s : State) (off : Nat) (v : Word) : State :=
  match off with
  | 0x008 => s.writeCtrl v
  | 0x00C => { s with status := s.status.clearWritten v }
  | 0x010 => { s with arg := v }
  | 0x014 => s.writeCmd v
  | 0x01C => { s with maxtry := v }
  | _ => s

/-- A write of word `j` of `x[k]`: lost while Busy, with OVR set (20_memory.md R53, R60). -/
def State.writeOperand (s : State) (k : Reg) (j : Nat) (v : Word) : State :=
  if s.isBusy then s.setOvr else s.writeReg k (setWordAt (s.readReg k) j v)

/-- A read of word `j` of `x[k]`: any word while Busy, a fresh free value (20_memory.md R52, R60; log 5). -/
def State.readOperand (s : State) (k : Reg) (j : Nat) : State :=
  if s.isBusy then
    { s with env := { s.env with resp := .data (Config.busyRead s.env.drawn), drawn := s.env.drawn + 1 } }
  else s.answer (.data (wordAt (s.readReg k) j))

/-- `MemRead(off, size)` (20_memory.md R52, R56). -/
def State.memRead (s : State) (off size : Nat) : State :=
  if off % 4 ≠ 0 ∨ size ≠ 4 then s.setBerr.answer .busError
  else
    match s.placeOf off with
    | .control o => s.answer (.data (s.controlWord o))
    | .operand k j => s.readOperand k j

/-- `MemWrite(off, size, v)` (20_memory.md R53, R56). -/
def State.memWrite (s : State) (off size : Nat) (v : Word) : State :=
  if off % 4 ≠ 0 ∨ size ≠ 4 then s.setBerr.answer .busError
  else
    match s.placeOf off with
    | .control o => (s.writeControl o v).answer .written
    | .operand k j => (s.writeOperand k j v).answer .written

/-- The window offset of a bus address, for an access the device decodes: its first byte lies in the window
(20_memory.md R51; log 6). -/
def State.offsetOf (s : State) (addr : Nat) : Option Nat :=
  if s.par.base ≤ addr ∧ addr < s.par.base + s.span then some (addr - s.par.base) else none

/-- One host access, whole, at one instant (20_memory.md R58). An address outside the window is not decoded: the device
does nothing (R51; log 6). -/
def State.hostAccess (s : State) : Access → State
  | .read addr size =>
    match s.offsetOf addr with
    | some off => s.memRead off size
    | none => s.answer .notDecoded
  | .write addr size v =>
    match s.offsetOf addr with
    | some off => s.memWrite off size v
    | none => s.answer .notDecoded

/-- The data the host sees in an answer to a read: 0 with a bus error (20_memory.md R52, R56), none where no data is
driven. -/
def Resp.readValue : Resp → Option Word
  | .data v => some v
  | .busError => some 0#32
  | .none | .written | .notDecoded => Option.none

/-- The byte of a bus word on byte lane `i`, the byte at address `4*j + i` (20_memory.md R55). -/
def laneByte (w : Word) (i : Nat) : Byte := w.extractLsb' (8 * i) 8

end Sys2Proof.Machine
end

