-- ==== Sys2Proof/Machine/Control.lean ====
section
/-! DEFINITION. The controller's micro-step around `exec` (60_exceptions.md R207, R208), and one event of the device's
surroundings (00_scope.md R12). -/

namespace Sys2Proof.Machine

/-- One micro-step of the controller (60_exceptions.md R207): nothing while Idle; while Busy the abort test first (R208),
then ILLEGAL for a reserved opcode (30_encoding.md R76), else the command. -/
def microStep (s : State) : Outcome :=
  match s.ctl with
  | .idle => .next s
  | .busy r =>
    if r.abortReq then .next (s.raise .aborted)
    else
      match decode r.cw with
      | .ok i => exec i s
      | .error _ => .next (s.raise .illegal)

/-- What one event does (00_scope.md R12): a host access, a micro-step, or the reset input
(70_reset_and_hazards.md R230). -/
def stepEvent (e : Event) (s : State) : Outcome :=
  match e with
  | .access a => .next (s.hostAccess a)
  | .micro => microStep s
  | .powerOn => .next s.doReset

/-- The events that are still to come after the next one (log 3). -/
def State.withEvents (s : State) (es : List Event) : State := { s with env := { s.env with events := es } }

/-- The state in which the very next step takes the first micro-step of a command: the word is accepted as a CMD write
would accept it (60_exceptions.md R201) and a micro-step comes next (log 8). -/
def State.acceptNext (s : State) (cw : Word) : State := (s.accept cw).withEvents (.micro :: s.env.events)

end Sys2Proof.Machine
end

