-- ==== Sys2Proof/Machine/Step.lean ====
section
/-! DEFINITION. One step of the device with its surroundings (00_scope.md R12): the next event, or, when no event is to
come, a micro-step of the controller (70_reset_and_hazards.md R233, R249; log 3). -/

namespace Sys2Proof.Machine

/-- One step: one host access, one micro-step, or one assertion of the reset input. -/
def step (s : State) : Host.Outcome State Fault Refusal :=
  match s.env.events with
  | [] => microStep s
  | e :: es => stepEvent e (s.withEvents es)

/-- `s` with the command of a table row accepted, so that the next step runs it (log 8): this device fetches nothing, and a
command reaches the controller by a CMD write (10_state.md R22, R27). -/
def State.withFetchWord (s : State) (nbits w : Nat) : State := s.acceptNext (BitVec.ofNat 32 (w % 2 ^ nbits))

end Sys2Proof.Machine
end

