-- ==== Sys2Proof/WellFormed.lean ====
section
/-! DEFINITION. The checks the spec asks of what is given to the machine: legal parameters (00_scope.md R7), and an
assembler line whose arguments fit (30_encoding.md R74, R78). A decoded command word itself has nothing to check: all 16
values of every register field are legal (R72) and no encoding of a defined opcode is illegal (R76). -/

namespace Sys2Proof

/-- W mod 32 = 0 and 64 <= W <= 32768, as 2 <= WORDS <= 1024, and NTA_BASE a multiple of 4 (00_scope.md R7,
10_state.md R25, 20_memory.md R51). -/
def Config.Params.wf (p : Config.Params) : Bool :=
  decide (2 ≤ p.words) && decide (p.words ≤ 1024) && decide (p.base % 4 = 0)

/-- The arguments of a command line, one per ARG operand of 30_encoding.md R75: the exclusive upper bound of each. -/
def Instr.argBounds : Instr → List Nat
  | .ldi _ | .randb _ | .isprime _ _ | .encrypt _ _ _ => [2 ^ 32]
  | .makeprime _ => [2 ^ 16, 2 ^ 16]
  | .nop | .mov _ _ | .add _ _ _ | .sub _ _ _ | .mul _ _ _ | .divmod _ _ _ _ | .cmp _ _ | .bitlen _ _
  | .modmul _ _ _ _ | .seed _ | .rngclr | .randm _ _ | .gcd _ _ _ | .modinv _ _ _ | .powmod _ _ _ _
  | .blksz _ _ | .decrypt _ _ _ _ => []

/-- A command line of 30_encoding.md R78: the command with its `#value` operands in order (for MAKEPRIME, bits then
iters). -/
structure AsmLine where
  instr : Instr
  args : List Nat
  deriving DecidableEq, Repr

/-- A line has exactly the arguments its command reads, and each fits its part of ARG (30_encoding.md R74, R78). -/
def AsmLine.wf (l : AsmLine) : Bool :=
  l.args.length == l.instr.argBounds.length && (l.args.zip l.instr.argBounds).all fun ab => decide (ab.1 < ab.2)

end Sys2Proof
end

