-- ==== Sys2Proof/Machine/Asm.lean ====
section
/-! DEFINITION. The assembler of 30_encoding.md: what a command line stands for and the host lines (R78), and the
pseudo-instructions (R79). All of it is the host's: each line is a list of accesses the device sees. Polling and branching
between lines are host control flow (10_state.md R22), so WAIT is given as one poll. -/

namespace Sys2Proof.Machine

/-- The argument word of a line, for a command that reads ARG (30_encoding.md R74, R78). -/
def asmArg (l : AsmLine) : Option Word :=
  match l.instr.argBounds, l.args with
  | [_], [v] => some (BitVec.ofNat 32 v)
  | [_, _], [bits, iters] => some (primeArg bits iters)
  | _, _ => none

/-- `MemWrite(off, 4, v)` of the host, as an event on the bus (20_memory.md R51, R53). -/
def hostWrite (p : Config.Params) (off : Nat) (v : Word) : Event := .access (.write (p.base + off) 4 v)

/-- `MemRead(off, 4)` of the host, as an event on the bus (20_memory.md R51, R52). -/
def hostRead (p : Config.Params) (off : Nat) : Event := .access (.read (p.base + off) 4)

/-- A command line: the write of ARG, only if the command reads it, then the write of CMD (30_encoding.md R78). -/
def asmEvents (p : Config.Params) (l : AsmLine) : List Event :=
  ((asmArg l).toList.map (hostWrite p 0x010)) ++ [hostWrite p 0x014 (encode l.instr)]

/-- One poll of `WAIT` (30_encoding.md R78). -/
def waitPoll (p : Config.Params) : Event := hostRead p 0x00C

/-- `ACK` writes 0x2 to STATUS (30_encoding.md R78). -/
def ack (p : Config.Params) : Event := hostWrite p 0x00C 0x2#32

/-- The window offset of word `j` of `x[k]` (20_memory.md R54). -/
def operandOffset (p : Config.Params) (k : Reg) (j : Nat) : Nat := 0x1000 + k.val * p.bytes + 4 * j

/-- `WRREG rk, value`: the WORDS words of `x[k]`, least significant first (30_encoding.md R78). -/
def wrreg (p : Config.Params) (k : Reg) (v : Nat) : List Event :=
  (List.range p.words).map fun j => hostWrite p (operandOffset p k j) (wordAt v j)

/-- `RDREG rk`: the reads of the WORDS words of `x[k]` (30_encoding.md R78). -/
def rdreg (p : Config.Params) (k : Reg) : List Event :=
  (List.range p.words).map fun j => hostRead p (operandOffset p k j)

/-- The source's iteration count, which only the assembler supplies (30_encoding.md R79). -/
def defaultIters : Nat := 50

/-- `CLR rd` (30_encoding.md R79). -/
def asmClr (rd : Reg) : AsmLine := ⟨.ldi rd, [0]⟩

/-- `ISPRIME rd, rs1` with the default count (30_encoding.md R79). -/
def asmIsprime (rd rs1 : Reg) : AsmLine := ⟨.isprime rd rs1, [defaultIters]⟩

/-- `MAKEPRIME rd, #bits` with the default count (30_encoding.md R79). -/
def asmMakeprime (rd : Reg) (bits : Nat) : AsmLine := ⟨.makeprime rd, [bits, defaultIters]⟩

/-- `SQRMOD rd, rs1, rs3` (30_encoding.md R79). -/
def asmSqrmod (rd rs1 rs3 : Reg) : AsmLine := ⟨.modmul rd rs1 rs1 rs3, []⟩

/-- `DIV rd, rs1, rs2, rt`, with `rt` a scratch register other than `rd` (30_encoding.md R79, 90_conflicts.md C11). -/
def asmDiv (rd rs1 rs2 rt : Reg) : AsmLine := ⟨.divmod rd rs1 rs2 rt, []⟩

/-- `EXEC c`: the command line, then a `WAIT` of which one poll is shown (30_encoding.md R79). -/
def execLine (p : Config.Params) (l : AsmLine) : List Event := asmEvents p l ++ [waitPoll p]

end Sys2Proof.Machine
end

