-- ==== Sys2Proof/Safety.lean ====
section
/-! DEFINITION. What a safe run is: every step answers a next state, and every state meets the invariant of the device.
The invariant gathers what the rules promise of every reachable state. -/

namespace Sys2Proof.Machine

/-- Every operand register holds a natural below 2^W (10_state.md R21). -/
def State.RegsFit (s : State) : Prop := ∀ ρ : Reg, s.readReg ρ < 2 ^ s.width

/-- The progress of the running command is one its algorithm reaches (10_state.md R40, 44_isprime.md R160 to R162,
45_makeprime.md R170 to R174): the loop variables are in range, the counters follow them, and `rng` is Seeded once the
NOSEED check has passed. -/
def State.ProgressFits (s : State) (r : Running) : Prop :=
  match r.progress with
  | .start => (clearsRounds r.cw = true → s.rndcnt = 0#32) ∧ (clearsTries r.cw = true → s.trycnt = 0#32)
  | .primeLoop sh odd i =>
    ∃ rd rs1, decode r.cw = .ok (.isprime rd rs1) ∧ s.rng.isSeeded = true ∧ 4 ≤ r.src rs1
      ∧ decompose (r.src rs1 - 1) = (sh, odd) ∧ i ≤ r.iters ∧ s.rndcnt = BitVec.ofNat 32 i
  | .candidate t =>
    ∃ rd, decode r.cw = .ok (.makeprime rd) ∧ s.rng.isSeeded = true ∧ 2 ≤ r.primeBits ∧ r.primeBits ≤ s.width
      ∧ s.trycnt = BitVec.ofNat 32 t ∧ (r.maxtry ≠ 0#32 → t ≤ r.maxtry.toNat)
  | .candidateRound t c sh odd i =>
    ∃ rd, decode r.cw = .ok (.makeprime rd) ∧ s.rng.isSeeded = true ∧ 2 ≤ r.primeBits ∧ r.primeBits ≤ s.width
      ∧ s.trycnt = BitVec.ofNat 32 t ∧ 1 ≤ t ∧ (r.maxtry ≠ 0#32 → t ≤ r.maxtry.toNat)
      ∧ 5 ≤ c ∧ c % 2 = 1 ∧ bitlen c = r.primeBits ∧ decompose (c - 1) = (sh, odd) ∧ i < r.primeIters

/-- What holds while the controller is Busy: DONE and ERR are 0 (10_state.md R30, R31; log 19), CMD is the running word
(60_exceptions.md R214), and the latched operands are still what the source registers hold (20_memory.md R60). -/
structure State.BusyInv (s : State) (r : Running) : Prop where
  not_done : s.status.done = false
  err_ok : s.status.err = .ok
  cmd_running : s.cmd = r.cw
  snapshot_current : r.snapshot = s.snapshotFor r.cw
  progress_fits : s.ProgressFits r

/-- The invariant of the device. -/
structure State.Inv (s : State) : Prop where
  params_legal : s.par.wf = true
  regs_fit : s.RegsFit
  busy_inv : ∀ r, s.ctl = .busy r → s.BusyInv r

/-- A safe run: after any number of steps the machine stands in a state that meets the invariant; it never stops. -/
def State.Safe (s : State) : Prop := ∀ k, ∃ t : State, Sys2Proof.core.run k s = .next t ∧ t.Inv

end Sys2Proof.Machine
end

