-- ==== Sys2Proof/Certificates/Slice0/Obligations.lean ====
section
/-! DEFINITION. The statements for the provers. `r.src ρ` is the value of source register `ρ` at acceptance (`EncodedAs`,
`CmdWriteWhileIdleAcceptsTheCommand`). `exec i s` is one micro-step of the command `i` after the abort test, and
`StepRunsTheDecodedCommand` says when a step is it. "Frame" below means what the three structures say is kept. -/

namespace Sys2Proof.Machine

/-- What no command touches: the parameters, CTRL, ARG, CMD, MAXTRY, the sticky indicators, and the bus. -/
structure HostPartSame (s t : State) : Prop where
  par : t.par = s.par
  ctrl : t.ctrl = s.ctrl
  arg : t.arg = s.arg
  cmd : t.cmd = s.cmd
  maxtry : t.maxtry = s.maxtry
  ovr : t.status.ovr = s.status.ovr
  berr : t.status.berr = s.status.berr
  env : t.env = s.env

/-- The results a command may write, apart from the generator: every operand register but those in `ds`, the four flags,
RESLEN and the two counters are as before. -/
structure ResultsKept (s t : State) (ds : List Reg) : Prop where
  regs : ∀ ρ, ρ ∉ ds → t.readReg ρ = s.readReg ρ
  res : t.status.res = s.status.res
  eq : t.status.eq = s.status.eq
  lt : t.status.lt = s.status.lt
  sm : t.status.sm = s.status.sm
  reslen : t.reslen = s.reslen
  trycnt : t.trycnt = s.trycnt
  rndcnt : t.rndcnt = s.rndcnt

/-- The end of a command (60_exceptions.md R203, R204): phase Idle, so BUSY 0 and abortReq 0; DONE 1; ERR the code; and
nothing of the host's side has changed. -/
structure Ended (s t : State) (e : ErrCode) : Prop where
  idle : t.ctl = .idle
  done : t.status.done = true
  err : t.status.err = e
  host : HostPartSame s t

/-- The command goes on past a micro-step boundary with progress `p`: still Busy with the same latch, and STATUS, the
operand registers, RESLEN and the host's side are as before. -/
structure GoesOn (s t : State) (r : Running) (p : Progress) : Prop where
  busy : t.ctl = .busy { r with progress := p }
  status : t.status = s.status
  regs : ∀ ρ, t.readReg ρ = s.readReg ρ
  reslen : t.reslen = s.reslen
  host : HostPartSame s t

/-- The micro-step of `i` commits and writes no result. -/
def CommitsNothing (i : Instr) (s : State) : Prop :=
  ∃ t, exec i s = .next t ∧ Ended s t .ok ∧ ResultsKept s t [] ∧ t.rng = s.rng

/-- The micro-step of `i` commits and writes `v` to `x[rd]` and nothing else. -/
def CommitsReg (i : Instr) (s : State) (rd : Reg) (v : Nat) : Prop :=
  ∃ t, exec i s = .next t ∧ Ended s t .ok ∧ t.readReg rd = v ∧ ResultsKept s t [rd] ∧ t.rng = s.rng

/-- The micro-step of `i` ends with error `e` and writes no result (60_exceptions.md R203). -/
def Raises (i : Instr) (s : State) (e : ErrCode) : Prop :=
  ∃ t, exec i s = .next t ∧ Ended s t e ∧ ResultsKept s t [] ∧ t.rng = s.rng

/-- The words with opcode `op` are the command `f`, of the fields of the word (30_encoding.md R75), and what the command
reads is, for its source registers `srcs`, for ARG, SENTINEL and MAXTRY, what they hold at acceptance (60_exceptions.md R201,
70_reset_and_hazards.md R241). -/
def EncodedAs (op : BitVec 6) (f : Word → Instr) (srcs : Word → List Reg) : Prop :=
  ∀ cw, opField cw = op → decode cw = .ok (f cw) ∧ ∀ s : State,
    (∀ ρ ∈ srcs cw, (s.latch cw).src ρ = s.readReg ρ) ∧ (s.latch cw).arg = s.arg
    ∧ (s.latch cw).sentinel = s.ctrl.sentinel ∧ (s.latch cw).maxtry = s.maxtry

/-- Every piece of state of 10_state.md R20 at the value of the table of R42, ID and CFG as the host reads them. -/
structure AtReset (s : State) : Prop where
  regs : ∀ ρ, s.readReg ρ = 0
  id : s.controlWord 0x000 = 0x4E544131#32
  cfg : (s.controlWord 0x004).toNat = 0x01 * 2 ^ 24 + 16 * 2 ^ 16 + s.width / 32
  ctrl : s.controlWord 0x008 = 0x0000FF00#32
  ie : s.ctrl.ie = false
  sentinel : s.ctrl.sentinel = 0xFF#8
  status : s.controlWord 0x00C = 0#32
  arg : s.arg = 0#32
  cmd : s.cmd = 0#32
  reslen : s.reslen = 0#32
  maxtry : s.maxtry = 0#32
  trycnt : s.trycnt = 0#32
  rndcnt : s.rndcnt = 0#32
  rngstat : s.controlWord 0x028 = 0#32
  rng : s.rng = .unseeded
  ctl : s.ctl = .idle
  abortReq : s.abortReq = false
  irq : s.irq = false

/-- What each bit of a STATUS word says (10_state.md R29), the error by its number (60_exceptions.md R202). -/
structure StatusWordBits (s : State) (w : Word) : Prop where
  busy : w.getLsbD 0 = true ↔ s.ctl ≠ .idle
  done : w.getLsbD 1 = s.status.done
  err : ∀ p ∈ [(ErrCode.ok, 0), (.illegal, 1), (.overflow, 2), (.underflow, 3), (.divZero, 4), (.noInv, 5), (.domain, 6),
    (.badArg, 7), (.noSeed, 8), (.noPrime, 9), (.aborted, 10)], s.status.err = p.1 → (w.extractLsb' 4 4).toNat = p.2
  res : w.getLsbD 8 = s.status.res
  eq : w.getLsbD 9 = s.status.eq
  lt : w.getLsbD 10 = s.status.lt
  sm : w.getLsbD 11 = s.status.sm
  ovr : w.getLsbD 12 = s.status.ovr
  berr : w.getLsbD 13 = s.status.berr
  reserved : ∀ b, b = 2 ∨ b = 3 ∨ 14 ≤ b → w.getLsbD b = false

/-- What each bit of a CTRL word says: IE, SENTINEL, and 0 for the actions and the reserved bits (10_state.md R26). -/
structure CtrlWordBits (s : State) (w : Word) : Prop where
  ie : w.getLsbD 0 = s.ctrl.ie
  sentinel : w.extractLsb' 8 8 = s.ctrl.sentinel
  zero : ∀ b, (1 ≤ b ∧ b < 8) ∨ 16 ≤ b → w.getLsbD b = false

/-- A host write of a whole word at a window offset. -/
def State.hostWriteAt (s : State) (off : Nat) (v : Word) : State := s.hostAccess (.write (s.par.base + off) 4 v)

/-- A host read of a whole word at a window offset. -/
def State.hostReadAt (s : State) (off : Nat) : State := s.hostAccess (.read (s.par.base + off) 4)

/-- The window offset of word `j` of `x[k]` (20_memory.md R54). -/
def State.operandAt (s : State) (k : Reg) (j : Nat) : Nat := 0x1000 + k.val * s.bytes + 4 * j

end Sys2Proof.Machine

open Sys2Proof Sys2Proof.Machine

/-! Encoding. -/

/-- Decoding what the encoder writes gives the command back, for every command and every register in every field
(30_encoding.md R71, R72, R75). -/
def Obligations.DecodeOfEncodeIsTheCommand : Prop := ∀ i : Instr, decode (encode i) = .ok i

/-- A word decodes to a command exactly when it agrees with the command's encoding on the bits the command uses; every
other bit is ignored (30_encoding.md R73). -/
def Obligations.DecodeReadsExactlyTheUsedBits : Prop :=
  ∀ (cw : Word) (i : Instr), decode cw = .ok i ↔ cw &&& i.usedMask = encode i

/-- The words that do not decode are those of the 42 reserved opcodes (30_encoding.md R75, R76). -/
def Obligations.OnlyReservedOpcodesDoNotDecode : Prop :=
  ∀ cw : Word, (∃ d, decode cw = .error d) ↔ 0x16 ≤ (opField cw).toNat

/-- Words written out in the spec, from every family, and what they stand for (examples of 40_bigint.md to 46_cipher.md,
ENC-1 to ENC-7 of 95_test_vectors.md). -/
def Obligations.WordsOfTheSpecDecode : Prop :=
  decode 0x00000000#32 = .ok .nop ∧ decode 0x04400000#32 = .ok (.ldi 1) ∧ decode 0x0CC48000#32 = .ok (.add 3 1 2)
  ∧ decode 0x0CC483FF#32 = .ok (.add 3 1 2) ∧ decode 0x0CC48C00#32 = .ok (.add 3 1 2)
  ∧ decode 0x18C49000#32 = .ok (.divmod 3 1 2 4) ∧ decode 0x1C048000#32 = .ok (.cmp 1 2)
  ∧ decode 0x28040000#32 = .ok (.seed 1) ∧ decode 0x34C40000#32 = .ok (.randm 3 1)
  ∧ decode 0x3CC48000#32 = .ok (.modinv 3 1 2) ∧ decode 0x40C49000#32 = .ok (.powmod 3 1 2 4)
  ∧ decode 0x44C40000#32 = .ok (.isprime 3 1) ∧ decode 0x48C00000#32 = .ok (.makeprime 3)
  ∧ decode 0x54C49000#32 = .ok (.decrypt 3 1 2 4) ∧ decode 0x58000000#32 = .error (.reservedOpcode 0x16#6)

/-! The step. -/

/-- A step whose next event is a micro-step, or that has no event left, runs the decoded command when the controller is
Busy and no abort is pending (60_exceptions.md R207, R208). -/
def Obligations.StepRunsTheDecodedCommand : Prop :=
  ∀ (s : State) (r : Running) (i : Instr) (es : List Event),
    (s.env.events = .micro :: es ∨ (s.env.events = [] ∧ es = [])) → s.ctl = .busy r → r.abortReq = false →
    decode r.cw = .ok i → step s = exec i (s.withEvents es)

/-- A step takes one host access whole; and while Idle a micro-step changes nothing (20_memory.md R58, R61,
70_reset_and_hazards.md R233). The event list is the model's (log 3). -/
def Obligations.StepTakesOneAccessAndIdleWaits : Prop :=
  (∀ (s : State) (a : Access) (es : List Event), s.env.events = .access a :: es →
    step s = .next ((s.withEvents es).hostAccess a))
  ∧ (∀ s : State, s.ctl = .idle → s.env.events = [] → step s = .next s)
  ∧ (∀ (s : State) (es : List Event), s.ctl = .idle → s.env.events = .micro :: es → step s = .next (s.withEvents es))

/-- The machine never stops: a command that cannot complete is not a fault, and neither is one that never completes
(60_exceptions.md R203, 70_reset_and_hazards.md R250). -/
def Obligations.EveryStepAnswersANextState : Prop := ∀ s : State, ∃ t, step s = .next t

/-- Every step, whatever the host does, keeps the invariant of Safety.lean. That ERR is 0 while Busy is 10_state.md R31
against 70_reset_and_hazards.md R242, the model's choice (log 19). -/
def Obligations.EveryStepKeepsTheInvariant : Prop := ∀ s t : State, s.Inv → step s = .next t → t.Inv

/-- The reset state of every legal device meets the invariant. -/
def Obligations.ResetMeetsTheInvariant : Prop :=
  (∀ (p : Config.Params) (e : Env), p.wf = true → (State.resetOn p e).Inv) ∧ State.reset.Inv

/-- After the power-on state, a reset input and a soft reset alike, every piece of state has the value of 10_state.md R42;
the parameters are kept. The model's choices it rests on: the parameters of `State.reset` in the first clause (log 1), the
reset input as one event of the list in State (log 3), and that a reset keeps the parameters (log 11). -/
def Obligations.EveryResetLeavesTheResetValues : Prop :=
  AtReset State.reset
  ∧ (∀ (s : State) (es : List Event), s.par.wf = true → s.env.events = .powerOn :: es →
      ∃ t, step s = .next t ∧ AtReset t ∧ t.par = s.par)
  ∧ (∀ (s : State) (v : Word), s.par.wf = true → v.getLsbD 2 = true →
      AtReset (s.hostWriteAt 0x008 v) ∧ (s.hostWriteAt 0x008 v).par = s.par)

/-! The lifecycle. -/

/-- A CMD write while Idle is an acceptance, which latches what the command reads and changes nothing else
(60_exceptions.md R201). That ERR is cleared at acceptance is R201 against 70_reset_and_hazards.md R242, the model's choice
(log 19). -/
def Obligations.CmdWriteWhileIdleAcceptsTheCommand : Prop :=
  ∀ (s : State) (cw : Word), s.ctl = .idle → ∃ (t : State) (r : Running), s.hostWriteAt 0x014 cw = t
    ∧ t.ctl = .busy r ∧ t.isBusy = true ∧ t.cmd = cw ∧ r.cw = cw ∧ r.arg = s.arg ∧ r.sentinel = s.ctrl.sentinel
    ∧ r.maxtry = s.maxtry ∧ r.abortReq = false ∧ r.progress = .start
    ∧ (∀ i, decode cw = .ok i → r.snapshot.map Prod.fst = i.sources ∧ ∀ ρ ∈ i.sources, r.src ρ = s.readReg ρ)
    ∧ t.status = { s.status with done := false, err := .ok }
    ∧ t.rndcnt = (if opField cw = 0x11#6 ∨ opField cw = 0x12#6 then 0#32 else s.rndcnt)
    ∧ t.trycnt = (if opField cw = 0x12#6 then 0#32 else s.trycnt)
    ∧ (∀ ρ, t.readReg ρ = s.readReg ρ) ∧ t.par = s.par ∧ t.ctrl = s.ctrl ∧ t.arg = s.arg ∧ t.reslen = s.reslen
    ∧ t.maxtry = s.maxtry ∧ t.rng = s.rng
    ∧ (0x16 ≤ (opField cw).toNat → ∃ u, microStep t = .next u ∧ u.status.err = .illegal)

/-- An abort request is taken at the beginning of the next micro-step, ahead of everything else; while Idle there is no
request; two requests are one (60_exceptions.md R208). -/
def Obligations.AbortWinsAtTheNextMicroStep : Prop :=
  (∀ (s : State) (r : Running) (v : Word), s.ctl = .busy r → v.getLsbD 1 = true → v.getLsbD 2 = false →
    (s.hostWriteAt 0x008 v).ctl = .busy { r with abortReq := true })
  ∧ (∀ (s : State) (v : Word), s.ctl = .idle → v.getLsbD 2 = false → (s.hostWriteAt 0x008 v).ctl = .idle)
  ∧ (∀ (s : State) (v : Word), v.getLsbD 1 = true → v.getLsbD 2 = false →
      (s.hostWriteAt 0x008 v).hostWriteAt 0x008 v = s.hostWriteAt 0x008 v)
  ∧ (∀ (s : State) (r : Running), s.ctl = .busy r → r.abortReq = true →
      ∃ t, microStep s = .next t ∧ Ended s t .aborted ∧ ResultsKept s t [] ∧ t.rng = s.rng)

/-- A raised command ends with its code and its last micro-step leaves every result as it was, the draws made before it
included; and a micro-step that does not end the command writes no operand register, no flag, neither DONE nor ERR, and not
RESLEN. So a raised command leaves every result register as it was at acceptance (60_exceptions.md R203). -/
def Obligations.RaiseWritesNoResult : Prop :=
  (∀ (s t : State) (r : Running), s.ctl = .busy r → microStep s = .next t → t.ctl = .idle → t.status.err ≠ .ok →
    Ended s t t.status.err ∧ ResultsKept s t [] ∧ t.rng = s.rng)
  ∧ ∀ (s t : State) (r : Running), s.ctl = .busy r → microStep s = .next t → t.ctl ≠ .idle →
    t.x = s.x ∧ t.status = s.status ∧ t.reslen = s.reslen

/-- Every command but ISPRIME and MAKEPRIME takes exactly one micro-step: it ends in the first (60_exceptions.md R207). -/
def Obligations.OtherCommandsTakeOneMicroStep : Prop :=
  ∀ (s : State) (r : Running) (i : Instr), s.ctl = .busy r → (∀ rd rs1, i ≠ .isprime rd rs1) →
    (∀ rd, i ≠ .makeprime rd) → ∃ (t : State) (e : ErrCode), exec i s = .next t ∧ Ended s t e

/-- A reserved opcode is accepted like any other and ends with ILLEGAL at its first micro-step, with no other effect; no
defined opcode is illegal (30_encoding.md R76). -/
def Obligations.ReservedOpcodeEndsWithIllegal : Prop :=
  (∀ (s : State) (cw : Word), s.ctl = .idle → 0x16 ≤ (opField cw).toNat →
    ∃ t u : State, s.hostWriteAt 0x014 cw = t ∧ t.isBusy = true ∧ t.cmd = cw ∧ microStep t = .next u
      ∧ Ended t u .illegal ∧ ResultsKept s u [] ∧ u.rng = s.rng)
  ∧ (∀ cw : Word, (opField cw).toNat < 0x16 → ∃ i, decode cw = .ok i)

/-- Whatever a micro-step of a command does, it leaves CTRL, ARG, CMD, MAXTRY, the sticky indicators, the parameters and
the bus as they were (10_state.md R33, 20_memory.md R50). -/
def Obligations.CommandsLeaveTheHostSideAlone : Prop :=
  ∀ (i : Instr) (s t : State), exec i s = .next t → HostPartSame s t

/-- Only SEED, RNGCLR and the four drawing commands change the generator (41_random.md R130, R136). -/
def Obligations.OnlyRandomCommandsChangeTheGenerator : Prop :=
  ∀ (i : Instr) (s t : State), exec i s = .next t → t.rng ≠ s.rng →
    (∃ rs1, i = .seed rs1) ∨ i = .rngclr ∨ (∃ rd, i = .randb rd) ∨ (∃ rd rs1, i = .randm rd rs1)
      ∨ (∃ rd rs1, i = .isprime rd rs1) ∨ (∃ rd, i = .makeprime rd)

/-- Each flag has one producer, and RESLEN too, and each is written only at a successful commit (10_state.md R32, R34). -/
def Obligations.EachFlagHasOneProducer : Prop :=
  ∀ (i : Instr) (s t : State), exec i s = .next t →
    (t.status.res ≠ s.status.res → (∃ rd rs1, i = .isprime rd rs1) ∧ Ended s t .ok)
    ∧ (t.status.eq ≠ s.status.eq ∨ t.status.lt ≠ s.status.lt → (∃ rs1 rs2, i = .cmp rs1 rs2) ∧ Ended s t .ok)
    ∧ (t.status.sm ≠ s.status.sm ∨ t.reslen ≠ s.reslen →
        (∃ rd rs1 rs2 rs3, i = .decrypt rd rs1 rs2 rs3) ∧ Ended s t .ok)

/-- A completion makes IRQ what CTRL.IE is; acceptance and an acknowledgement drop it; setting IE while DONE is 1 raises it
at once, and clearing IE masks it without clearing DONE (10_state.md R41, 60_exceptions.md R211). -/
def Obligations.IrqFollowsCompletionAndEnable : Prop :=
  (∀ (s t : State) (r : Running), s.ctl = .busy r → microStep s = .next t → t.ctl = .idle → t.irq = s.ctrl.ie)
  ∧ (∀ (s : State) (cw : Word), s.ctl = .idle → (s.hostWriteAt 0x014 cw).irq = false)
  ∧ (∀ (s : State) (v : Word), v.getLsbD 1 = true → (s.hostWriteAt 0x00C v).irq = false)
  ∧ (∀ (s : State) (v : Word), v.getLsbD 2 = false →
      (s.hostWriteAt 0x008 v).irq = (v.getLsbD 0 && s.status.done)
      ∧ (s.hostWriteAt 0x008 v).status.done = s.status.done)

/-! The window. -/

/-- What a host read answers: bus error with data 0; the register at a control-page offset, 0 where it is reserved; bits
`[32*j+31 : 32*j]` of an operand register while Idle, and some word while Busy. An admitted read changes nothing but the
bus (20_memory.md R52). The words of CFG, CTRL, STATUS and RNGSTAT are said bit by bit, with the eleven numbers of the error
codes (10_state.md R25, R26, R29, R38, 60_exceptions.md R202). The model's choices it rests on: the answer is a field of
State (log 4), the word read while Busy is a free value (log 5), and an access that begins in the window and ends past it is
one of the window (log 6). -/
def Obligations.HostReadsAnswerWhatTheWindowHolds : Prop :=
  (∀ (s : State) (off size : Nat), off < s.span → (off % 4 ≠ 0 ∨ size ≠ 4) →
    (s.hostAccess (.read (s.par.base + off) size)).env.resp.readValue = some 0#32)
  ∧ (∀ (s : State) (p : Nat × Word),
      p ∈ [(0x000, 0x4E544131#32), (0x004, s.cfgWord), (0x008, s.ctrlWord), (0x00C, s.statusWord), (0x010, s.arg),
        (0x014, s.cmd), (0x018, s.reslen), (0x01C, s.maxtry), (0x020, s.trycnt), (0x024, s.rndcnt),
        (0x028, s.rngstatWord)] → (s.hostReadAt p.1).env.resp = .data p.2)
  ∧ (∀ s : State, s.par.wf = true → ∃ w : Word, (s.hostReadAt 0x004).env.resp = .data w
      ∧ (w.extractLsb' 0 16).toNat = s.width / 32 ∧ (w.extractLsb' 16 8).toNat = 16 ∧ (w.extractLsb' 24 8).toNat = 0x01)
  ∧ (∀ s : State, ∃ w : Word, (s.hostReadAt 0x008).env.resp = .data w ∧ CtrlWordBits s w)
  ∧ (∀ s : State, ∃ w : Word, (s.hostReadAt 0x00C).env.resp = .data w ∧ StatusWordBits s w)
  ∧ (∀ s : State, (s.hostReadAt 0x028).env.resp = .data (if s.rng = .unseeded then 0#32 else 1#32))
  ∧ (∀ (s : State) (off : Nat), off % 4 = 0 → 0x02C ≤ off → off < 0x1000 →
      (s.hostReadAt off).env.resp = .data 0#32)
  ∧ (∀ (s : State) (k : Reg) (j : Nat), j < s.width / 32 → s.isBusy = false →
      ∃ w : Word, (s.hostReadAt (s.operandAt k j)).env.resp = .data w
        ∧ w.toNat = s.readReg k / 2 ^ (32 * j) % 2 ^ 32)
  ∧ (∀ (s : State) (k : Reg) (j : Nat), j < s.width / 32 → s.isBusy = true →
      ∃ w : Word, (s.hostReadAt (s.operandAt k j)).env.resp = .data w)
  ∧ (∀ (s : State) (off : Nat), off < s.span → off % 4 = 0 →
      ({ s.hostReadAt off with env := s.env } : State) = s)

/-- A write of one word of an operand register while Idle replaces that word, keeps every other word and every other
register, and changes nothing else (20_memory.md R53, R54). -/
def Obligations.OperandWriteReplacesOneWord : Prop :=
  ∀ (s : State) (k : Reg) (j : Nat) (v : Word), s.ctl = .idle → j < s.width / 32 → s.readReg k < 2 ^ s.width →
    ∃ t : State, s.hostWriteAt (s.operandAt k j) v = t ∧ t.readReg k < 2 ^ s.width
      ∧ t.readReg k / 2 ^ (32 * j) % 2 ^ 32 = v.toNat
      ∧ (∀ j', j' ≠ j → t.readReg k / 2 ^ (32 * j') % 2 ^ 32 = s.readReg k / 2 ^ (32 * j') % 2 ^ 32)
      ∧ (∀ ρ, ρ ≠ k → t.readReg ρ = s.readReg ρ)
      ∧ ({ t with x := s.x, env := s.env } : State) = s

/-- The host line WRREG loads a whole register, whatever it held, and no other (30_encoding.md R78,
70_reset_and_hazards.md R244). -/
def Obligations.WrregLoadsAWholeRegister : Prop :=
  ∀ (s : State) (k : Reg) (v : Nat), s.ctl = .idle → s.RegsFit → v < 2 ^ s.width → s.env.events = wrreg s.par k v →
    ∃ t : State, Sys2Proof.core.run (s.width / 32) s = .next t ∧ t.readReg k = v
      ∧ (∀ ρ, ρ ≠ k → t.readReg ρ = s.readReg ρ) ∧ t.env.events = [] ∧ ({ t with x := s.x, env := s.env } : State) = s

/-- An assembler line, run by the host, starts its command with its arguments where the command finds them
(30_encoding.md R74, R78). -/
def Obligations.AsmLineStartsItsCommand : Prop :=
  ∀ (s : State) (l : AsmLine), l.wf = true → s.ctl = .idle → s.env.events = asmEvents s.par l →
    ∃ (t : State) (r : Running), Sys2Proof.core.run (asmEvents s.par l).length s = .next t ∧ t.ctl = .busy r
      ∧ decode r.cw = .ok l.instr ∧ t.env.events = []
      ∧ (l.args = [] → r.arg = s.arg) ∧ (∀ v, l.args = [v] → r.arg.toNat = v)
      ∧ (∀ bits iters, l.args = [bits, iters] → r.primeBits = bits ∧ r.primeIters = iters)

/-- A CMD write or an operand-register write while Busy is lost: it sets OVR and has no other effect. OVR then stays 1 until
1 is written to it or a reset occurs (60_exceptions.md R214). -/
def Obligations.OverrunIsLostAndSticky : Prop :=
  (∀ (s : State) (v : Word), s.isBusy = true →
    s.hostWriteAt 0x014 v = { s with status := { s.status with ovr := true }, env := { s.env with resp := .written } })
  ∧ (∀ (s : State) (k : Reg) (j : Nat) (v : Word), s.isBusy = true → j < s.width / 32 →
      s.hostWriteAt (s.operandAt k j) v
        = { s with status := { s.status with ovr := true }, env := { s.env with resp := .written } })
  ∧ (∀ s t : State, s.status.ovr = true → step s = .next t → t.status.ovr = true
      ∨ (∃ es, s.env.events = .powerOn :: es)
      ∨ (∃ v es, s.env.events = .access (.write (s.par.base + 0x00C) 4 v) :: es ∧ v.getLsbD 12 = true)
      ∨ (∃ v es, s.env.events = .access (.write (s.par.base + 0x008) 4 v) :: es ∧ v.getLsbD 2 = true))

/-- An access of the window that is not an aligned 32-bit one sets BERR and has no other effect; a read returns 0; the bus
carries the error response (20_memory.md R56). An access that lies wholly outside the window, of any size and alignment, is
not decoded, while Idle and while Busy: it changes nothing of the device, BERR included (20_memory.md R51). The model's
choices it rests on: the answer is a field of State (log 4), and an access that begins in the window and ends past it is one
of the window (log 6). -/
def Obligations.BusErrorOnlySetsBerr : Prop :=
  (∀ (s : State) (off size : Nat) (v : Word), off < s.span → (off % 4 ≠ 0 ∨ size ≠ 4) →
    (∀ a, a = .read (s.par.base + off) size ∨ a = .write (s.par.base + off) size v →
      s.hostAccess a = { s with status := { s.status with berr := true }, env := { s.env with resp := .busError } }
      ∧ (s.hostAccess a).irq = s.irq)
    ∧ (s.hostAccess (.read (s.par.base + off) size)).env.resp.readValue = some 0#32)
  ∧ (∀ (s : State) (addr size : Nat) (v : Word), 0 < size →
      (addr + size ≤ s.par.base ∨ s.par.base + s.span ≤ addr) →
      s.hostAccess (.read addr size) = { s with env := { s.env with resp := .notDecoded } }
      ∧ s.hostAccess (.write addr size v) = { s with env := { s.env with resp := .notDecoded } })

/-- A write of STATUS clears each of DONE, OVR and BERR whose written bit is 1 and changes nothing else (10_state.md R29). -/
def Obligations.StatusWriteClearsOnlyItsBits : Prop :=
  ∀ (s : State) (v : Word), ∃ t : State, s.hostWriteAt 0x00C v = t
    ∧ t.status.done = (s.status.done && !v.getLsbD 1) ∧ t.status.ovr = (s.status.ovr && !v.getLsbD 12)
    ∧ t.status.berr = (s.status.berr && !v.getLsbD 13)
    ∧ ({ t with
          status := { t.status with done := s.status.done, ovr := s.status.ovr, berr := s.status.berr }
          env := s.env } : State) = s

/-- ARG and MAXTRY store what is written; a write of a read-only register or of a reserved offset changes nothing but the
answer on the bus (20_memory.md R53, R57, 10_state.md R24, R25, R28, R34 to R38). -/
def Obligations.OtherControlWritesStoreOrAreIgnored : Prop :=
  (∀ (s : State) (v : Word),
    s.hostWriteAt 0x010 v = { s with arg := v, env := { s.env with resp := .written } }
    ∧ s.hostWriteAt 0x01C v = { s with maxtry := v, env := { s.env with resp := .written } })
  ∧ ∀ (s : State) (off : Nat) (v : Word), off % 4 = 0 → off < 0x1000 →
    off ∉ [0x008, 0x00C, 0x010, 0x014, 0x01C] → s.hostWriteAt off v = { s with env := { s.env with resp := .written } }

/-- A write of CTRL without SRST is read back on IE and SENTINEL, with every other bit 0, and never reaches the latch of the
running command (10_state.md R26, 70_reset_and_hazards.md R245). -/
def Obligations.CtrlWriteReadsBack : Prop :=
  ∀ (s : State) (v : Word), v.getLsbD 2 = false → ∃ t : State, s.hostWriteAt 0x008 v = t
    ∧ t.ctrlWord = v &&& 0x0000FF01#32
    ∧ (∀ r, s.ctl = .busy r → t.ctl = .busy { r with abortReq := r.abortReq || v.getLsbD 1 })
    ∧ ({ t with ctrl := s.ctrl, ctl := s.ctl, env := s.env } : State) = s

/-- While a command runs, no host access but a CTRL write with ABORT or SRST reaches it: the latch, the operand registers,
the generator, the flags, ERR, RESLEN, CMD and the counters stay as they are (20_memory.md R60, R65,
70_reset_and_hazards.md R245). -/
def Obligations.RunningCommandIsShieldedFromTheHost : Prop :=
  ∀ (s : State) (r : Running) (a : Access), s.ctl = .busy r →
    (∀ v : Word, a = .write (s.par.base + 0x008) 4 v → v.getLsbD 1 = false ∧ v.getLsbD 2 = false) →
    ∃ t : State, s.hostAccess a = t ∧ t.ctl = s.ctl ∧ ResultsKept s t [] ∧ t.rng = s.rng
      ∧ t.status.err = s.status.err ∧ t.cmd = s.cmd ∧ t.par = s.par ∧ t.env.events = s.env.events

/-! The big-integer unit (40_bigint.md). -/

/-- NOP commits and changes nothing else (40_bigint.md R100). -/
def Obligations.NopCommitsAndChangesNothing : Prop :=
  EncodedAs 0x00#6 (fun _ => .nop) (fun _ => []) ∧ ∀ (s : State) (r : Running), s.ctl = .busy r → CommitsNothing .nop s

/-- LDI loads ARG, zero-extended; MOV copies (40_bigint.md R101, R102). -/
def Obligations.LdiLoadsTheArgumentAndMovCopies : Prop :=
  EncodedAs 0x01#6 (fun cw => .ldi (rdField cw)) (fun _ => [])
  ∧ EncodedAs 0x02#6 (fun cw => .mov (rdField cw) (rs1Field cw)) (fun cw => [rs1Field cw])
  ∧ ∀ (s : State) (r : Running) (rd rs1 : Reg), s.ctl = .busy r →
    CommitsReg (.ldi rd) s rd r.arg.toNat ∧ CommitsReg (.mov rd rs1) s rd (r.src rs1)

/-- ADD commits the exact sum, or raises OVERFLOW where it does not fit (40_bigint.md R103). -/
def Obligations.AddIsExact : Prop :=
  EncodedAs 0x03#6 (fun cw => .add (rdField cw) (rs1Field cw) (rs2Field cw)) (fun cw => [rs1Field cw, rs2Field cw])
  ∧ ∀ (s : State) (r : Running) (rd rs1 rs2 : Reg), s.ctl = .busy r →
    (r.src rs1 + r.src rs2 < 2 ^ s.width → CommitsReg (.add rd rs1 rs2) s rd (r.src rs1 + r.src rs2))
    ∧ (2 ^ s.width ≤ r.src rs1 + r.src rs2 → Raises (.add rd rs1 rs2) s .overflow)

/-- SUB commits the exact difference, or raises UNDERFLOW (40_bigint.md R104). -/
def Obligations.SubIsExact : Prop :=
  EncodedAs 0x04#6 (fun cw => .sub (rdField cw) (rs1Field cw) (rs2Field cw)) (fun cw => [rs1Field cw, rs2Field cw])
  ∧ ∀ (s : State) (r : Running) (rd rs1 rs2 : Reg), s.ctl = .busy r →
    (∀ d, r.src rs1 = r.src rs2 + d → CommitsReg (.sub rd rs1 rs2) s rd d)
    ∧ (r.src rs1 < r.src rs2 → Raises (.sub rd rs1 rs2) s .underflow)

/-- MUL commits the exact product, or raises OVERFLOW where it does not fit (40_bigint.md R105). -/
def Obligations.MulIsExact : Prop :=
  EncodedAs 0x05#6 (fun cw => .mul (rdField cw) (rs1Field cw) (rs2Field cw)) (fun cw => [rs1Field cw, rs2Field cw])
  ∧ ∀ (s : State) (r : Running) (rd rs1 rs2 : Reg), s.ctl = .busy r →
    (r.src rs1 * r.src rs2 < 2 ^ s.width → CommitsReg (.mul rd rs1 rs2) s rd (r.src rs1 * r.src rs2))
    ∧ (2 ^ s.width ≤ r.src rs1 * r.src rs2 → Raises (.mul rd rs1 rs2) s .overflow)

/-- DIVMOD commits the quotient and the remainder, the remainder alone when both go to one register, or raises DIVZERO
(40_bigint.md R106). -/
def Obligations.DivmodDividesWithRemainder : Prop :=
  EncodedAs 0x06#6 (fun cw => .divmod (rdField cw) (rs1Field cw) (rs2Field cw) (rs3Field cw))
      (fun cw => [rs1Field cw, rs2Field cw])
  ∧ ∀ (s : State) (r : Running) (rd rs1 rs2 rr : Reg), s.ctl = .busy r →
    (r.src rs2 = 0 → Raises (.divmod rd rs1 rs2 rr) s .divZero)
    ∧ (0 < r.src rs2 → ∃ (t : State) (q m : Nat), exec (.divmod rd rs1 rs2 rr) s = .next t ∧ Ended s t .ok
        ∧ r.src rs1 = q * r.src rs2 + m ∧ m < r.src rs2 ∧ t.readReg rr = m ∧ (rd ≠ rr → t.readReg rd = q)
        ∧ ResultsKept s t [rd, rr] ∧ t.rng = s.rng)

/-- CMP writes EQ and LT and nothing else (40_bigint.md R107). -/
def Obligations.CmpWritesEqAndLt : Prop :=
  EncodedAs 0x07#6 (fun cw => .cmp (rs1Field cw) (rs2Field cw)) (fun cw => [rs1Field cw, rs2Field cw])
  ∧ ∀ (s : State) (r : Running) (rs1 rs2 : Reg), s.ctl = .busy r →
    ∃ t : State, exec (.cmp rs1 rs2) s = .next t ∧ Ended s t .ok
      ∧ (t.status.eq = true ↔ r.src rs1 = r.src rs2) ∧ (t.status.lt = true ↔ r.src rs1 < r.src rs2)
      ∧ t.status.res = s.status.res ∧ t.status.sm = s.status.sm ∧ (∀ ρ, t.readReg ρ = s.readReg ρ)
      ∧ t.reslen = s.reslen ∧ t.trycnt = s.trycnt ∧ t.rndcnt = s.rndcnt ∧ t.rng = s.rng

/-- BITLEN commits the least `L` with `a < 2^L` (40_bigint.md R108, 00_scope.md R8). -/
def Obligations.BitlenIsTheLeastLength : Prop :=
  EncodedAs 0x08#6 (fun cw => .bitlen (rdField cw) (rs1Field cw)) (fun cw => [rs1Field cw])
  ∧ ∀ (s : State) (r : Running) (rd rs1 : Reg), s.ctl = .busy r →
    ∃ L, CommitsReg (.bitlen rd rs1) s rd L ∧ ∀ k, r.src rs1 < 2 ^ k ↔ L ≤ k

/-- MODMUL commits the exact product reduced, unreduced operands and even moduli included, or raises DIVZERO
(40_bigint.md R109). -/
def Obligations.ModmulReducesTheExactProduct : Prop :=
  EncodedAs 0x09#6 (fun cw => .modmul (rdField cw) (rs1Field cw) (rs2Field cw) (rs3Field cw))
      (fun cw => [rs1Field cw, rs2Field cw, rs3Field cw])
  ∧ ∀ (s : State) (r : Running) (rd rs1 rs2 rs3 : Reg), s.ctl = .busy r →
    (r.src rs3 = 0 → Raises (.modmul rd rs1 rs2 rs3) s .divZero)
    ∧ (0 < r.src rs3 → CommitsReg (.modmul rd rs1 rs2 rs3) s rd (r.src rs1 * r.src rs2 % r.src rs3))

/-! The random source (41_random.md). -/

/-- SEED initialises the generator with the whole register, Seeded already or not; RNGCLR tears it down
(41_random.md R132, R133). -/
def Obligations.SeedInitialisesAndRngclrTearsDown : Prop :=
  EncodedAs 0x0A#6 (fun cw => .seed (rs1Field cw)) (fun cw => [rs1Field cw])
  ∧ EncodedAs 0x0B#6 (fun _ => .rngclr) (fun _ => [])
  ∧ ∀ (s : State) (r : Running) (rs1 : Reg), s.ctl = .busy r →
    (∃ t : State, exec (.seed rs1) s = .next t ∧ Ended s t .ok
      ∧ t.rng = .seeded (Config.generator.seed (r.src rs1)) ∧ t.rngstatWord = 1#32 ∧ ResultsKept s t [])
    ∧ ∃ t : State, exec .rngclr s = .next t ∧ Ended s t .ok ∧ t.rng = .unseeded ∧ t.rngstatWord = 0#32
      ∧ ResultsKept s t []

/-- RANDB makes one draw below `2^bits`, or raises NOSEED, then BADARG, with no draw (41_random.md R134). -/
def Obligations.RandbDrawsBelowTheWidth : Prop :=
  EncodedAs 0x0C#6 (fun cw => .randb (rdField cw)) (fun _ => [])
  ∧ ∀ (s : State) (r : Running) (rd : Reg), s.ctl = .busy r →
    (s.rng = .unseeded → Raises (.randb rd) s .noSeed)
    ∧ (∀ σ, s.rng = .seeded σ → s.width < r.arg.toNat → Raises (.randb rd) s .badArg)
    ∧ (∀ σ, s.rng = .seeded σ → r.arg.toNat ≤ s.width →
        ∃ t : State, exec (.randb rd) s = .next t ∧ Ended s t .ok
          ∧ t.readReg rd = (drawB Config.generator σ r.arg.toNat).1 ∧ t.readReg rd < 2 ^ r.arg.toNat
          ∧ t.rng = .seeded (drawB Config.generator σ r.arg.toNat).2 ∧ ResultsKept s t [rd])

/-- RANDM makes one draw below the bound, or raises NOSEED, then BADARG, with no draw (41_random.md R135). -/
def Obligations.RandmDrawsBelowTheBound : Prop :=
  EncodedAs 0x0D#6 (fun cw => .randm (rdField cw) (rs1Field cw)) (fun cw => [rs1Field cw])
  ∧ ∀ (s : State) (r : Running) (rd rs1 : Reg), s.ctl = .busy r →
    (s.rng = .unseeded → Raises (.randm rd rs1) s .noSeed)
    ∧ (∀ σ, s.rng = .seeded σ → r.src rs1 = 0 → Raises (.randm rd rs1) s .badArg)
    ∧ (∀ σ, s.rng = .seeded σ → 0 < r.src rs1 →
        ∃ t : State, exec (.randm rd rs1) s = .next t ∧ Ended s t .ok
          ∧ t.readReg rd = (drawM Config.generator σ (r.src rs1)).1 ∧ t.readReg rd < r.src rs1
          ∧ t.rng = .seeded (drawM Config.generator σ (r.src rs1)).2 ∧ ResultsKept s t [rd])

/-! The GCD unit and the exponentiation engine (42_gcd.md, 43_powmod.md). -/

/-- GCD commits the greatest common divisor, `gcd(a, 0) = a` and `gcd(0, b) = b` included (42_gcd.md R140). -/
def Obligations.GcdIsTheGreatestCommonDivisor : Prop :=
  EncodedAs 0x0E#6 (fun cw => .gcd (rdField cw) (rs1Field cw) (rs2Field cw)) (fun cw => [rs1Field cw, rs2Field cw])
  ∧ ∀ (s : State) (r : Running) (rd rs1 rs2 : Reg), s.ctl = .busy r →
    ∃ d, CommitsReg (.gcd rd rs1 rs2) s rd d ∧ d ∣ r.src rs1 ∧ d ∣ r.src rs2
      ∧ ∀ c, c ∣ r.src rs1 → c ∣ r.src rs2 → c ∣ d

/-- MODINV commits the unique inverse in `[0, n)`, or raises DIVZERO, or NOINV exactly when there is none
(42_gcd.md R141). -/
def Obligations.ModinvIsTheInverseOrNoinv : Prop :=
  EncodedAs 0x0F#6 (fun cw => .modinv (rdField cw) (rs1Field cw) (rs2Field cw)) (fun cw => [rs1Field cw, rs2Field cw])
  ∧ ∀ (s : State) (r : Running) (rd rs1 rs2 : Reg), s.ctl = .busy r →
    (r.src rs2 = 0 → Raises (.modinv rd rs1 rs2) s .divZero)
    ∧ (0 < r.src rs2 → Nat.gcd (r.src rs1) (r.src rs2) ≠ 1 → Raises (.modinv rd rs1 rs2) s .noInv)
    ∧ (0 < r.src rs2 → Nat.gcd (r.src rs1) (r.src rs2) = 1 →
        ∃ v, CommitsReg (.modinv rd rs1 rs2) s rd v ∧ v < r.src rs2 ∧ r.src rs1 * v % r.src rs2 = 1 % r.src rs2
          ∧ ∀ w, w < r.src rs2 → r.src rs1 * w % r.src rs2 = 1 % r.src rs2 → w = v)

/-- POWMOD commits `b^e mod m`, with `b^0 = 1`, for every modulus from 1 on, even moduli included, or raises DIVZERO
(43_powmod.md R150). -/
def Obligations.PowmodIsThePowerReduced : Prop :=
  EncodedAs 0x10#6 (fun cw => .powmod (rdField cw) (rs1Field cw) (rs2Field cw) (rs3Field cw))
      (fun cw => [rs1Field cw, rs2Field cw, rs3Field cw])
  ∧ ∀ (s : State) (r : Running) (rd rs1 rs2 rs3 : Reg), s.ctl = .busy r →
    (r.src rs3 = 0 → Raises (.powmod rd rs1 rs2 rs3) s .divZero)
    ∧ (0 < r.src rs3 → CommitsReg (.powmod rd rs1 rs2 rs3) s rd (r.src rs1 ^ r.src rs2 % r.src rs3))

/-! The Miller-Rabin controller (44_isprime.md). -/

/-- A round is inconclusive exactly when `a^r` is 1 modulo `n` or one of the first `s` squarings of it, itself included, is
`n - 1`; for an even `n`, where `s = 0`, only `a^r` itself counts (44_isprime.md R161). -/
def Obligations.MillerRabinRoundIsTheStrongTest : Prop :=
  ∀ n sh odd a : Nat, 4 ≤ n →
    (mrRound n sh odd a = .inconclusive
      ↔ a ^ odd % n = 1 ∨ a ^ odd % n = n - 1 ∨ ∃ j, j < sh ∧ a ^ (2 ^ j * odd) % n = n - 1)

/-- The first micro-step of ISPRIME: NOSEED before all else; 0 for `n <= 1` and 1 for 2 and 3 with no draw; otherwise the
decomposition `n - 1 = 2^s * r` with `r` odd, and the command goes on (44_isprime.md R160, R162). -/
def Obligations.IsprimeFirstStepDecidesTheTrivialCases : Prop :=
  EncodedAs 0x11#6 (fun cw => .isprime (rdField cw) (rs1Field cw)) (fun cw => [rs1Field cw])
  ∧ ∀ (s : State) (r : Running) (rd rs1 : Reg), s.ctl = .busy r → r.progress = .start →
    (s.rng = .unseeded → Raises (.isprime rd rs1) s .noSeed)
    ∧ (s.rng.isSeeded = true → r.src rs1 ≤ 3 →
        ∃ t : State, exec (.isprime rd rs1) s = .next t ∧ Ended s t .ok
          ∧ t.readReg rd = (if r.src rs1 ≤ 1 then 0 else 1) ∧ t.status.res = decide (2 ≤ r.src rs1)
          ∧ ResultsKept s { t with status := { t.status with res := s.status.res } } [rd] ∧ t.rng = s.rng)
    ∧ (s.rng.isSeeded = true → 4 ≤ r.src rs1 →
        ∃ (t : State) (sh odd : Nat), exec (.isprime rd rs1) s = .next t ∧ GoesOn s t r (.primeLoop sh odd 0)
          ∧ r.src rs1 - 1 = 2 ^ sh * odd ∧ odd % 2 = 1 ∧ t.trycnt = s.trycnt ∧ t.rndcnt = s.rndcnt ∧ t.rng = s.rng)

/-- A later micro-step of ISPRIME: 1 when all rounds have passed; otherwise one round, counted, on one witness drawn in
`[2, n - 2]`, which commits 0 at once when it proves compositeness (44_isprime.md R160, R163). -/
def Obligations.IsprimePassRunsOneRound : Prop :=
  ∀ (s : State) (r : Running) (rd rs1 : Reg) (σ : Config.RngState) (sh odd i : Nat), s.ctl = .busy r →
    r.progress = .primeLoop sh odd i → s.rng = .seeded σ → 4 ≤ r.src rs1 →
    (i = r.arg.toNat →
      ∃ t : State, exec (.isprime rd rs1) s = .next t ∧ Ended s t .ok ∧ t.readReg rd = 1 ∧ t.status.res = true
        ∧ ResultsKept s { t with status := { t.status with res := s.status.res } } [rd] ∧ t.rng = s.rng)
    ∧ (i ≠ r.arg.toNat → ∃ (t : State) (a : Nat) (σ' : Config.RngState),
        drawM Config.generator σ (r.src rs1 - 3) = (a - 2, σ') ∧ 2 ≤ a ∧ a ≤ r.src rs1 - 2
        ∧ exec (.isprime rd rs1) s = .next t ∧ t.rng = .seeded σ' ∧ t.rndcnt = s.rndcnt + 1#32 ∧ t.trycnt = s.trycnt
        ∧ (mrRound (r.src rs1) sh odd a = .inconclusive → GoesOn s t r (.primeLoop sh odd (i + 1)))
        ∧ (mrRound (r.src rs1) sh odd a = .composite → Ended s t .ok ∧ t.readReg rd = 0 ∧ t.status.res = false
            ∧ ResultsKept s
                { t with status := { t.status with res := s.status.res }, rndcnt := s.rndcnt } [rd]))

/-- ISPRIME completes: within `iters + 2` micro-steps of its acceptance, whatever the generator returns
(44_isprime.md R160, 60_exceptions.md R207, 70_reset_and_hazards.md R249). -/
def Obligations.IsprimeCompletesWithinItsRounds : Prop :=
  ∀ (s : State) (cw : Word) (rd rs1 : Reg), s.env.events = [] → decode cw = .ok (.isprime rd rs1) →
    ∃ (k : Nat) (t : State), k ≤ s.arg.toNat + 2 ∧ Sys2Proof.core.run k (s.accept cw) = .next t ∧ t.ctl = .idle
      ∧ t.status.done = true ∧ (t.status.err = .ok ∨ t.status.err = .noSeed)

/-- ISPRIME of a prime commits 1, whatever the generator returns and however many rounds are asked for; with a prime above 3
it runs them all (44_isprime.md R160, R164). -/
def Obligations.PrimesAlwaysPassIsprime : Prop :=
  ∀ (s : State) (cw : Word) (rd rs1 : Reg), s.env.events = [] → decode cw = .ok (.isprime rd rs1) →
    s.rng.isSeeded = true → Nat.Prime (s.readReg rs1) →
    ∃ t : State, Sys2Proof.core.run (s.arg.toNat + 2) (s.accept cw) = .next t ∧ t.ctl = .idle ∧ t.status.err = .ok
      ∧ t.readReg rd = 1 ∧ t.status.res = true ∧ (4 ≤ s.readReg rs1 → t.rndcnt = s.arg)
      ∧ ∀ ρ, ρ ≠ rd → t.readReg ρ = s.readReg ρ

/-! The prime-candidate generator (45_makeprime.md). -/

/-- A candidate has the top bit and the low bit set, and its other bits are those drawn (45_makeprime.md R171). -/
def Obligations.CandidateForcesTopAndLowBit : Prop :=
  ∀ bits v : Nat, 2 ≤ bits → v < 2 ^ bits →
    2 ^ (bits - 1) + 1 ≤ candidateOf bits v ∧ candidateOf bits v ≤ 2 ^ bits - 1
    ∧ ∀ b, (candidateOf bits v).testBit b = (v.testBit b || decide (b = bits - 1) || decide (b = 0))

/-- The first micro-step of MAKEPRIME: NOSEED, then BADARG for `bits < 2` or `bits > W`, with no draw; otherwise the command
goes on with no candidate drawn (45_makeprime.md R170, R173). -/
def Obligations.MakeprimeFirstStepChecksItsArgument : Prop :=
  EncodedAs 0x12#6 (fun cw => .makeprime (rdField cw)) (fun _ => [])
  ∧ ∀ (s : State) (r : Running) (rd : Reg), s.ctl = .busy r → r.progress = .start →
    (s.rng = .unseeded → Raises (.makeprime rd) s .noSeed)
    ∧ (s.rng.isSeeded = true → (r.arg.toNat % 2 ^ 16 < 2 ∨ s.width < r.arg.toNat % 2 ^ 16) →
        Raises (.makeprime rd) s .badArg)
    ∧ (s.rng.isSeeded = true → 2 ≤ r.arg.toNat % 2 ^ 16 → r.arg.toNat % 2 ^ 16 ≤ s.width →
        ∃ t : State, exec (.makeprime rd) s = .next t ∧ GoesOn s t r (.candidate 0) ∧ t.trycnt = s.trycnt
          ∧ t.rndcnt = s.rndcnt ∧ t.rng = s.rng)

/-- The micro-step that draws a candidate: NOPRIME at the latched cap, with no draw; otherwise one DrawB, counted, which is
the result at once if it is 3 or if no round is asked for, and else goes to its rounds (45_makeprime.md R170, R172). -/
def Obligations.MakeprimeDrawsOneCandidate : Prop :=
  ∀ (s : State) (r : Running) (rd : Reg) (σ : Config.RngState) (n : Nat), s.ctl = .busy r →
    r.progress = .candidate n → s.rng = .seeded σ → 2 ≤ r.arg.toNat % 2 ^ 16 →
    (r.maxtry ≠ 0#32 → n = r.maxtry.toNat → Raises (.makeprime rd) s .noPrime)
    ∧ ((r.maxtry = 0#32 ∨ n ≠ r.maxtry.toNat) → ∃ (t : State) (v c : Nat) (σ' : Config.RngState),
        drawB Config.generator σ (r.arg.toNat % 2 ^ 16) = (v, σ') ∧ c = candidateOf (r.arg.toNat % 2 ^ 16) v
        ∧ exec (.makeprime rd) s = .next t ∧ t.rng = .seeded σ' ∧ t.trycnt = BitVec.ofNat 32 (n + 1)
        ∧ t.rndcnt = s.rndcnt
        ∧ (c = 3 ∨ r.arg.toNat / 2 ^ 16 = 0 → Ended s t .ok ∧ t.readReg rd = c
            ∧ ResultsKept s { t with trycnt := s.trycnt } [rd])
        ∧ (c ≠ 3 → 0 < r.arg.toNat / 2 ^ 16 → ∃ sh odd, GoesOn s t r (.candidateRound (n + 1) c sh odd 0)
            ∧ c - 1 = 2 ^ sh * odd ∧ odd % 2 = 1))

/-- The micro-step of one round on a candidate: one witness drawn and counted; the candidate is rejected, goes to its next
round, or is committed after its last (45_makeprime.md R170). -/
def Obligations.MakeprimeRunsOneRound : Prop :=
  ∀ (s : State) (r : Running) (rd : Reg) (σ : Config.RngState) (n c sh odd i : Nat), s.ctl = .busy r →
    r.progress = .candidateRound n c sh odd i → s.rng = .seeded σ → 4 ≤ c →
    ∃ (t : State) (a : Nat) (σ' : Config.RngState),
      drawM Config.generator σ (c - 3) = (a - 2, σ') ∧ 2 ≤ a ∧ a ≤ c - 2
      ∧ exec (.makeprime rd) s = .next t ∧ t.rng = .seeded σ' ∧ t.rndcnt = s.rndcnt + 1#32 ∧ t.trycnt = s.trycnt
      ∧ (mrRound c sh odd a = .composite → GoesOn s t r (.candidate n))
      ∧ (mrRound c sh odd a = .inconclusive → i + 1 < r.arg.toNat / 2 ^ 16 →
          GoesOn s t r (.candidateRound n c sh odd (i + 1)))
      ∧ (mrRound c sh odd a = .inconclusive → r.arg.toNat / 2 ^ 16 ≤ i + 1 → Ended s t .ok ∧ t.readReg rd = c
          ∧ ResultsKept s { t with rndcnt := s.rndcnt } [rd])

/-- What MAKEPRIME commits is odd and has exactly the bit length asked for, in every state that meets the invariant
(45_makeprime.md R174). -/
def Obligations.MakeprimeResultIsOddOfExactLength : Prop :=
  ∀ (s t : State) (r : Running) (rd : Reg), s.Inv → s.ctl = .busy r → decode r.cw = .ok (.makeprime rd) →
    exec (.makeprime rd) s = .next t → t.ctl = .idle → t.status.err = .ok →
    t.readReg rd % 2 = 1 ∧ 2 ^ (r.arg.toNat % 2 ^ 16 - 1) ≤ t.readReg rd
      ∧ t.readReg rd < 2 ^ (r.arg.toNat % 2 ^ 16)

/-- With a cap `c > 0`, MAKEPRIME completes after at most `c` candidates and `c * iters` rounds, whatever the generator
returns (45_makeprime.md R175). -/
def Obligations.CappedMakeprimeCompletes : Prop :=
  ∀ (s : State) (cw : Word) (rd : Reg), s.env.events = [] → decode cw = .ok (.makeprime rd) → s.maxtry ≠ 0#32 →
    ∃ (k : Nat) (t : State), k ≤ 2 + s.maxtry.toNat * (1 + s.arg.toNat / 2 ^ 16)
      ∧ Sys2Proof.core.run k (s.accept cw) = .next t ∧ t.ctl = .idle ∧ t.status.done = true
      ∧ t.trycnt.toNat ≤ s.maxtry.toNat ∧ t.rndcnt.toNat ≤ s.maxtry.toNat * (s.arg.toNat / 2 ^ 16)

/-- Without a cap MAKEPRIME may never complete: there is a generator under which a 4-bit search that has begun stays Busy at
every micro-step, testing 9 for ever (45_makeprime.md R175, vector MKP-10 of 95_test_vectors.md). -/
def Obligations.UncappedMakeprimeMayRunForEver : Prop :=
  ∃ g : Config.Generator, ∀ (s : State) (r : Running) (rd : Reg), s.ctl = .busy r → s.rng.isSeeded = true →
    r.primeBits = 4 → 0 < r.primeIters → r.maxtry = 0#32 →
    ((∃ n, r.progress = .candidate n) ∨ ∃ n, r.progress = .candidateRound n 9 3 1 0) →
    ∃ (t : State) (p : Progress), makeprimeStep g rd s = .next t ∧ t.ctl = .busy { r with progress := p }
      ∧ t.rng.isSeeded = true ∧ ((∃ n, p = .candidate n) ∨ ∃ n, p = .candidateRound n 9 3 1 0)

/-! The block wrapper (46_cipher.md). -/

/-- BLKSZ commits `floor((bitlen(M) - 1) / 8)`, so that `2^(8k) <= M < 2^(8(k+1))`, or raises BADARG for 0
(46_cipher.md R180). -/
def Obligations.BlkszIsTheBlockSize : Prop :=
  EncodedAs 0x13#6 (fun cw => .blksz (rdField cw) (rs1Field cw)) (fun cw => [rs1Field cw])
  ∧ ∀ (s : State) (r : Running) (rd rs1 : Reg), s.ctl = .busy r →
    (r.src rs1 = 0 → Raises (.blksz rd rs1) s .badArg)
    ∧ (0 < r.src rs1 → ∃ k, CommitsReg (.blksz rd rs1) s rd k ∧ k = (bitlen (r.src rs1) - 1) / 8
        ∧ 2 ^ (8 * k) ≤ r.src rs1 ∧ r.src rs1 < 2 ^ (8 * (k + 1)))

/-- ENCRYPT makes its checks in order and commits `m^n mod n` for the block integer `m`, the sentinel before the payload
(46_cipher.md R182). -/
def Obligations.EncryptIsThePowerOfTheBlock : Prop :=
  EncodedAs 0x14#6 (fun cw => .encrypt (rdField cw) (rs1Field cw) (rs2Field cw)) (fun cw => [rs1Field cw, rs2Field cw])
  ∧ ∀ (s : State) (r : Running) (rd rs1 rs2 : Reg) (L P N m : Nat), s.ctl = .busy r → L = r.arg.toNat →
    P = r.src rs1 → N = r.src rs2 → m = r.sentinel.toNat * 2 ^ (8 * L) + P →
    (s.width / 8 - 1 < L → Raises (.encrypt rd rs1 rs2) s .badArg)
    ∧ (L ≤ s.width / 8 - 1 → 2 ^ (8 * L) ≤ P → Raises (.encrypt rd rs1 rs2) s .badArg)
    ∧ (L ≤ s.width / 8 - 1 → P < 2 ^ (8 * L) → (m = 0 ∨ m = 1) → Raises (.encrypt rd rs1 rs2) s .domain)
    ∧ (L ≤ s.width / 8 - 1 → P < 2 ^ (8 * L) → 2 ≤ m → N = 0 → Raises (.encrypt rd rs1 rs2) s .divZero)
    ∧ (L ≤ s.width / 8 - 1 → P < 2 ^ (8 * L) → 2 ≤ m → 0 < N → CommitsReg (.encrypt rd rs1 rs2) s rd (m ^ N % N))

/-- DECRYPT commits the export of `m = C^D mod M` without its first byte: the payload integer, its length in RESLEN, and SM
telling whether the first byte is not the sentinel (46_cipher.md R183, 00_scope.md R9). -/
def Obligations.DecryptDropsTheLeadingByte : Prop :=
  EncodedAs 0x15#6 (fun cw => .decrypt (rdField cw) (rs1Field cw) (rs2Field cw) (rs3Field cw))
      (fun cw => [rs1Field cw, rs2Field cw, rs3Field cw])
  ∧ ∀ (s : State) (r : Running) (rd rs1 rs2 rs3 : Reg) (m : Nat), s.ctl = .busy r →
    m = r.src rs1 ^ r.src rs2 % r.src rs3 →
    (r.src rs3 = 0 → Raises (.decrypt rd rs1 rs2 rs3) s .divZero)
    ∧ (0 < r.src rs3 → m = 0 → Raises (.decrypt rd rs1 rs2 rs3) s .domain)
    ∧ (0 < r.src rs3 → 0 < m → ∃ (t : State) (lead : Byte) (payload : List Byte),
        exportBytes m = lead :: payload ∧ ofBytes (lead :: payload) = m ∧ lead ≠ 0#8
        ∧ exec (.decrypt rd rs1 rs2 rs3) s = .next t ∧ Ended s t .ok
        ∧ t.readReg rd = ofBytes payload ∧ toBytes payload.length (t.readReg rd) = payload
        ∧ t.reslen = BitVec.ofNat 32 payload.length ∧ (t.status.sm = true ↔ lead ≠ r.sentinel)
        ∧ ResultsKept s { t with status := { t.status with sm := s.status.sm }, reslen := s.reslen } [rd]
        ∧ t.rng = s.rng)

/-- The round trip of the SS cryptosystem: with a key whose primes are as 46_cipher.md R184 asks, a block below `pq` with a
nonzero sentinel comes back from ENCRYPT and DECRYPT with its payload, its length and its sentinel. -/
def Obligations.SsRoundTripRestoresThePayload : Prop :=
  ∀ (p q d : Nat), Nat.Prime p → Nat.Prime q → p ≠ q → ¬ p ∣ q - 1 → ¬ q ∣ p - 1 →
    modInverse (p ^ 2 * q) (Nat.lcm (p - 1) (q - 1)) = some d →
    ∀ (s₁ : State) (r₁ : Running) (rd₁ rs1 rs2 : Reg), s₁.ctl = .busy r₁ → r₁.src rs2 = p ^ 2 * q →
      r₁.arg.toNat ≤ s₁.width / 8 - 1 → r₁.src rs1 < 2 ^ (8 * r₁.arg.toNat) → r₁.sentinel ≠ 0#8 →
      2 ≤ blockInt r₁.sentinel r₁.arg.toNat (r₁.src rs1) → blockInt r₁.sentinel r₁.arg.toNat (r₁.src rs1) < p * q →
      ∃ t₁ : State, exec (.encrypt rd₁ rs1 rs2) s₁ = .next t₁ ∧ t₁.status.err = .ok
        ∧ ∀ (s₂ : State) (r₂ : Running) (rd₂ a b c : Reg), s₂.ctl = .busy r₂ → r₂.sentinel = r₁.sentinel →
          r₂.src a = t₁.readReg rd₁ → r₂.src b = d → r₂.src c = p * q →
          ∃ t₂ : State, exec (.decrypt rd₂ a b c) s₂ = .next t₂ ∧ t₂.status.err = .ok
            ∧ t₂.readReg rd₂ = r₁.src rs1 ∧ t₂.reslen = r₁.arg ∧ t₂.status.sm = false
end

