-- ==== Sys2Proof/Laws/Arith.lean ====
section
/-! SUPPORT. One lemma per arithmetic function that says what it computes, in the terms of the spec: bit and byte length,
byte strings, the Euclid unit, the exponentiation engine, the decomposition, the candidate and the draws. -/

namespace Sys2Proof.Machine

/-! Bit length (00_scope.md R8). -/

@[simp] theorem bitlen_zero : bitlen 0 = 0 := rfl

theorem bitlen_of_pos {v : Nat} (h : 0 < v) : bitlen v = Nat.log2 v + 1 := by
  simp [bitlen, Nat.pos_iff_ne_zero.mp h]

/-- `bitlen(v)` is the least `L` with `v < 2^L` (00_scope.md R8). -/
theorem bitlen_le_iff (v L : Nat) : bitlen v ≤ L ↔ v < 2 ^ L := by
  rcases Nat.eq_zero_or_pos v with rfl | h
  · simp
  · rw [bitlen_of_pos h, ← Nat.log2_lt (by omega)]
    omega

theorem lt_two_pow_bitlen (v : Nat) : v < 2 ^ bitlen v := (bitlen_le_iff v _).mp le_rfl

theorem bitlen_pos_iff (v : Nat) : 0 < bitlen v ↔ 0 < v := by
  rcases Nat.eq_zero_or_pos v with rfl | h
  · simp
  · simp [bitlen_of_pos h, h]

theorem bitlen_eq_zero_iff (v : Nat) : bitlen v = 0 ↔ v = 0 := by
  have := bitlen_pos_iff v
  omega

theorem two_pow_le_of_lt_bitlen {v k : Nat} (h : k < bitlen v) : 2 ^ k ≤ v := by
  by_contra hc
  have := (bitlen_le_iff v k).mpr (by omega)
  omega

/-- A value with its top bit at `L - 1` has bit length `L`. -/
theorem bitlen_eq {v L : Nat} (hL : 0 < L) (hlo : 2 ^ (L - 1) ≤ v) (hhi : v < 2 ^ L) : bitlen v = L := by
  have h1 := (bitlen_le_iff v L).mpr hhi
  have h2 : ¬ bitlen v ≤ L - 1 := fun h => absurd ((bitlen_le_iff v (L - 1)).mp h) (by omega)
  omega

/-! Byte strings (00_scope.md R9). -/

@[simp] theorem length_toBytes (len v : Nat) : (toBytes len v).length = len := by
  induction len with
  | zero => rfl
  | succ k ih => simp [toBytes, ih]

theorem foldl_bytes (bs : List Byte) (v : Nat) :
    bs.foldl (fun v b => v * 256 + b.toNat) v = v * 256 ^ bs.length + ofBytes bs := by
  induction bs generalizing v with
  | nil => simp [ofBytes]
  | cons b bs ih =>
    simp only [List.foldl_cons, List.length_cons, ofBytes, ih (v * 256 + b.toNat), ih (0 * 256 + b.toNat)]
    ring

/-- The first byte is the most significant (00_scope.md R9). -/
theorem ofBytes_cons (b : Byte) (bs : List Byte) : ofBytes (b :: bs) = b.toNat * 256 ^ bs.length + ofBytes bs := by
  rw [ofBytes, List.foldl_cons, foldl_bytes]
  simp

theorem ofBytes_lt (bs : List Byte) : ofBytes bs < 256 ^ bs.length := by
  induction bs with
  | nil => simp [ofBytes]
  | cons b bs ih =>
    have hb : b.toNat < 256 := b.isLt
    rw [ofBytes_cons, List.length_cons, pow_succ]
    nlinarith [Nat.pos_of_neZero (256 ^ bs.length)]

/-- A big-endian string keeps the low bytes of its value. -/
theorem ofBytes_toBytes (len v : Nat) : ofBytes (toBytes len v) = v % 256 ^ len := by
  induction len with
  | zero => simp [toBytes, ofBytes, Nat.mod_one]
  | succ k ih =>
    rw [toBytes, ofBytes_cons, length_toBytes, ih, BitVec.toNat_ofNat, pow_succ 256 k, Nat.mod_mul, Nat.mul_comm,
      Nat.add_comm]

/-! The Euclid unit (42_gcd.md). -/

theorem gcdLoop_eq (fuel u v : Nat) (h : v < fuel) : gcdLoop fuel u v = Nat.gcd u v := by
  induction fuel generalizing u v with
  | zero => omega
  | succ k ih =>
    unfold gcdLoop
    split
    · simp [*]
    · rename_i hv
      have := Nat.mod_lt u (Nat.pos_of_ne_zero hv)
      rw [ih _ _ (by omega), Nat.gcd_comm u v, Nat.gcd_rec v u, Nat.gcd_comm]

/-- The Euclid unit computes the greatest common divisor (42_gcd.md R140). -/
theorem euclid_eq (a b : Nat) : euclid a b = Nat.gcd a b := gcdLoop_eq _ _ _ (by omega)

/-- What the loop of MODINV keeps: `r0` ends as the gcd, and `t0 * a` stays congruent to `r0` (42_gcd.md R141). -/
theorem invLoop_spec (a n : Int) (fuel r0 r1 : Nat) (t0 t1 : Int) (hf : r1 < fuel) (h0 : t0 * a ≡ r0 [ZMOD n])
    (h1 : t1 * a ≡ r1 [ZMOD n]) :
    (invLoop fuel r0 r1 t0 t1).1 = Nat.gcd r0 r1
      ∧ (invLoop fuel r0 r1 t0 t1).2 * a ≡ ((invLoop fuel r0 r1 t0 t1).1 : Int) [ZMOD n] := by
  induction fuel generalizing r0 r1 t0 t1 with
  | zero => omega
  | succ k ih =>
    unfold invLoop
    split
    · rename_i h
      subst h
      simpa using h0
    · rename_i hr
      have hpos : 0 < r1 := Nat.pos_of_ne_zero hr
      have hmod : r0 - r0 / r1 * r1 = r0 % r1 := by rw [Nat.mod_eq_sub_div_mul]
      have hlt := Nat.mod_lt r0 hpos
      have hnew : (t0 - (r0 / r1 : Nat) * t1) * a ≡ (r0 - r0 / r1 * r1 : Nat) [ZMOD n] := by
        have hle : r0 / r1 * r1 ≤ r0 := Nat.div_mul_le_self r0 r1
        push_cast [hle]
        rw [sub_mul, mul_assoc]
        exact h0.sub (h1.mul_left _)
      have key := ih r1 (r0 - r0 / r1 * r1) t1 (t0 - (r0 / r1 : Nat) * t1) (by omega) h1 hnew
      refine ⟨?_, key.2⟩
      rw [key.1, hmod, Nat.gcd_comm r0 r1, Nat.gcd_rec r1 r0, Nat.gcd_comm]

/-- MODINV reports failure exactly when the gcd is not 1 (42_gcd.md R141). -/
theorem modInverse_eq_none_iff (a n : Nat) (hn : 0 < n) : modInverse a n = none ↔ Nat.gcd a n ≠ 1 := by
  have hlt := Nat.mod_lt a hn
  have h := invLoop_spec a n (n + 1) n (a % n) 0 1 (by omega) (by simp [Int.modEq_iff_dvd])
    (by simpa using (Int.mod_modEq (a : Int) n).symm)
  have hg : Nat.gcd n (a % n) = Nat.gcd a n := by rw [Nat.gcd_comm n, ← Nat.gcd_rec, Nat.gcd_comm]
  simp only [modInverse, h.1, hg]
  split <;> simp_all

/-- What MODINV commits is the inverse in `[0, n)` (42_gcd.md R141). -/
theorem modInverse_eq_some (a n v : Nat) (hn : 0 < n) (h : modInverse a n = some v) :
    v < n ∧ a * v % n = 1 % n := by
  have hlt := Nat.mod_lt a hn
  have hs := invLoop_spec a n (n + 1) n (a % n) 0 1 (by omega) (by simp [Int.modEq_iff_dvd])
    (by simpa using (Int.mod_modEq (a : Int) n).symm)
  simp only [modInverse] at h
  split at h
  · rename_i hr
    rw [hr] at hs
    injection h with hv
    have hn' : (0 : Int) < n := by exact_mod_cast hn
    have hnn := Int.emod_nonneg (invLoop (n + 1) n (a % n) 0 1).2 hn'.ne'
    have hlt' := Int.emod_lt_of_pos (invLoop (n + 1) n (a % n) 0 1).2 hn'
    have hcast : (v : Int) = (invLoop (n + 1) n (a % n) 0 1).2 % n := by rw [← hv, Int.toNat_of_nonneg hnn]
    refine ⟨by omega, ?_⟩
    have hm : (a * v : Int) ≡ 1 [ZMOD n] := by
      rw [hcast, mul_comm]
      exact ((Int.mod_modEq _ _).mul_right _).trans (by simpa using hs.2)
    have : a * v ≡ 1 [MOD n] := by
      rw [← Int.natCast_modEq_iff]
      exact_mod_cast hm
    exact this
  · cases h

/-! The exponentiation engine (43_powmod.md). -/

theorem mod_two_pow_succ_eq (e k : Nat) : e % 2 ^ (k + 1) = e % 2 ^ k + if e.testBit k then 2 ^ k else 0 := by
  rw [pow_succ, Nat.mod_mul, Nat.testBit_eq_decide_div_mod_eq]
  rcases Nat.mod_two_eq_zero_or_one (e / 2 ^ k) with h | h <;> simp [h]

theorem powLoop_modEq (b e m k acc : Nat) : powLoop b e m k acc ≡ acc ^ 2 ^ k * b ^ (e % 2 ^ k) [MOD m] := by
  induction k generalizing acc with
  | zero =>
    simp only [powLoop, pow_zero, Nat.mod_one, pow_one, mul_one]
    rfl
  | succ k ih =>
    have hsq : acc * acc % m ≡ acc * acc [MOD m] := Nat.mod_modEq _ _
    have hpow : (acc * acc) ^ 2 ^ k = acc ^ 2 ^ (k + 1) := by rw [← sq, ← pow_mul, pow_succ, mul_comm]
    unfold powLoop
    split
    · rename_i h
      have hmul : acc * acc % m * b % m ≡ acc * acc * b [MOD m] := (Nat.mod_modEq _ _).trans (hsq.mul_right b)
      refine (ih _).trans (((hmul.pow _).mul_right _).trans ?_)
      rw [mod_two_pow_succ_eq, h, if_pos rfl, mul_pow, hpow, add_comm (e % 2 ^ k), pow_add b, mul_assoc]
    · rename_i h
      refine (ih _).trans (((hsq.pow _).mul_right _).trans ?_)
      rw [mod_two_pow_succ_eq, if_neg h, hpow, add_zero]

/-- Every accumulator of the engine but the first is reduced. -/
theorem powLoop_lt (b e m k acc : Nat) (hm : 0 < m) (h : acc < m) : powLoop b e m k acc < m := by
  induction k generalizing acc with
  | zero => exact h
  | succ k ih =>
    unfold powLoop
    split <;> exact ih _ (Nat.mod_lt _ hm)

/-- The engine computes `b^e mod m` for `m >= 1`, with `b^0 = 1` (43_powmod.md R151, R152). -/
theorem powmod_eq (b e m : Nat) (hm : 0 < m) : powmod b e m = b ^ e % m := by
  have hlt : powmod b e m < m := powLoop_lt _ _ _ _ _ hm (Nat.mod_lt _ hm)
  have hc : powmod b e m ≡ b ^ e [MOD m] := by
    refine (powLoop_modEq _ _ _ _ _).trans ?_
    rw [Nat.mod_eq_of_lt (lt_two_pow_bitlen e)]
    simpa using ((Nat.mod_modEq 1 m).pow (2 ^ bitlen e)).mul ((Nat.mod_modEq b m).pow e)
  rw [← Nat.mod_eq_of_lt hlt]
  exact hc

theorem powmod_lt (b e m : Nat) (hm : 0 < m) : powmod b e m < m := by
  rw [powmod_eq b e m hm]
  exact Nat.mod_lt _ hm

/-! The decomposition (44_isprime.md R162). -/

theorem oddPart_spec (fuel m : Nat) (hm : 0 < m) (h : m < 2 ^ fuel) :
    m = 2 ^ (oddPart fuel m).1 * (oddPart fuel m).2 ∧ (oddPart fuel m).2 % 2 = 1 := by
  induction fuel generalizing m with
  | zero => simp at h; omega
  | succ k ih =>
    unfold oddPart
    split
    · rename_i he
      have key := ih (m / 2) (by omega) (by rw [pow_succ] at h; omega)
      refine ⟨?_, key.2⟩
      simp only [pow_succ]
      have := key.1
      generalize 2 ^ (oddPart k (m / 2)).1 = p at *
      generalize (oddPart k (m / 2)).2 = q at *
      have : p * 2 * q = 2 * (p * q) := by ring
      omega
    · simp
      omega

/-- `m = 2^s * r` with `r` odd, for `m > 0` (44_isprime.md R162). -/
theorem decompose_spec (m : Nat) (hm : 0 < m) :
    m = 2 ^ (decompose m).1 * (decompose m).2 ∧ (decompose m).2 % 2 = 1 :=
  oddPart_spec _ _ hm (lt_two_pow_bitlen m)

/-! The Miller-Rabin round (44_isprime.md). -/

/-- The squaring loop is inconclusive exactly when one of its values is `n - 1`; stopping at a 1 loses nothing, since the
squarings after a 1 are all 1 (44_isprime.md R161). -/
theorem squareLoop_eq_inconclusive_iff (n k y : Nat) (hn : 4 ≤ n) (hy : y < n) :
    squareLoop n k y = .inconclusive ↔ ∃ j, j ≤ k ∧ y ^ 2 ^ j % n = n - 1 := by
  induction k generalizing y with
  | zero =>
    simp only [squareLoop]
    constructor
    · intro h
      split at h
      · exact ⟨0, le_rfl, by simp [Nat.mod_eq_of_lt hy]; assumption⟩
      · cases h
    · rintro ⟨j, hj, h⟩
      obtain rfl : j = 0 := by omega
      simp [Nat.mod_eq_of_lt hy] at h
      simp [h]
  | succ k ih =>
    have hsq (j : Nat) : y ^ 2 ^ (j + 1) % n = (y * y % n) ^ 2 ^ j % n := by
      rw [pow_succ 2 j, mul_comm, pow_mul, sq]
      exact Nat.pow_mod _ _ _
    simp only [squareLoop]
    by_cases h1 : y = n - 1
    · rw [if_pos h1]
      exact ⟨fun _ => ⟨0, by omega, by simpa [Nat.mod_eq_of_lt hy] using h1⟩, fun _ => rfl⟩
    · rw [if_neg h1]
      have h0 (j : Nat) (h : y ^ 2 ^ j % n = n - 1) : ∃ i, j = i + 1 := by
        cases j with
        | zero => exact absurd (by simpa [Nat.mod_eq_of_lt hy] using h) h1
        | succ i => exact ⟨i, rfl⟩
      by_cases h2 : y * y % n = 1
      · rw [if_pos h2]
        refine ⟨fun h => (nomatch h), ?_⟩
        rintro ⟨j, -, h⟩
        obtain ⟨i, rfl⟩ := h0 j h
        rw [hsq, h2, one_pow, Nat.mod_eq_of_lt (by omega)] at h
        omega
      · rw [if_neg h2, ih _ (Nat.mod_lt _ (by omega))]
        constructor
        · rintro ⟨j, hj, h⟩
          exact ⟨j + 1, by omega, by rwa [hsq]⟩
        · rintro ⟨j, hj, h⟩
          obtain ⟨i, rfl⟩ := h0 j h
          exact ⟨i, by omega, by rwa [← hsq]⟩

/-! Draws and candidates (41_random.md R130, 45_makeprime.md R171). -/

/-- The range law of DrawB (41_random.md R130). -/
theorem drawB_lt (g : Config.Generator) (σ : Config.RngState) (bits : Nat) : (drawB g σ bits).1 < 2 ^ bits :=
  Nat.mod_lt _ (Nat.two_pow_pos bits)

/-- The range law of DrawM (41_random.md R130). -/
theorem drawM_lt (g : Config.Generator) (σ : Config.RngState) (bound : Nat) (h : 0 < bound) :
    (drawM g σ bound).1 < bound := Nat.mod_lt _ h

/-- A configuration function that keeps the range law is used as it is (41_random.md R130). -/
theorem drawB_of_lawful (g : Config.Generator) (σ : Config.RngState) (bits : Nat) (h : (g.drawB σ bits).1 < 2 ^ bits) :
    drawB g σ bits = g.drawB σ bits := by
  simp [drawB, Nat.mod_eq_of_lt h]

/-- See `drawB_of_lawful`. -/
theorem drawM_of_lawful (g : Config.Generator) (σ : Config.RngState) (bound : Nat) (h : (g.drawM σ bound).1 < bound) :
    drawM g σ bound = g.drawM σ bound := by
  simp [drawM, Nat.mod_eq_of_lt h]

theorem candidateOf_lt (bits v : Nat) (hb : 0 < bits) (hv : v < 2 ^ bits) : candidateOf bits v < 2 ^ bits := by
  have h1 : 2 ^ (bits - 1) < 2 ^ bits := Nat.pow_lt_pow_right (by omega) (by omega)
  have h2 : 1 < 2 ^ bits := Nat.one_lt_two_pow (by omega)
  exact Nat.or_lt_two_pow (Nat.or_lt_two_pow hv h1) h2

/-- The top bit and the low bit of a candidate are set (45_makeprime.md R171). -/
theorem candidateOf_bounds (bits v : Nat) :
    2 ^ (bits - 1) ≤ candidateOf bits v ∧ candidateOf bits v % 2 = 1 := by
  refine ⟨?_, ?_⟩
  · exact le_trans Nat.right_le_or Nat.left_le_or
  · have : (candidateOf bits v).testBit 0 = true := by simp [candidateOf]
    simpa [Nat.testBit_zero] using this

/-- A candidate has exactly the bit length asked for (45_makeprime.md R171, R174). -/
theorem bitlen_candidateOf (bits v : Nat) (hb : 0 < bits) (hv : v < 2 ^ bits) : bitlen (candidateOf bits v) = bits :=
  bitlen_eq hb (candidateOf_bounds bits v).1 (candidateOf_lt bits v hb hv)

end Sys2Proof.Machine
end

