-- ==== Sys2Proof/Laws/Decode.lean ====
section
/-! SUPPORT. The fields of an encoded word (30_encoding.md R71). -/

namespace Sys2Proof

/-- The layout of a command word: the opcode, four register fields, ten ignored bits (30_encoding.md R71). -/
def wordOfFields (op : BitVec 6) (a b c d : BitVec 4) (rsv : BitVec 10) : Word := op ++ a ++ b ++ c ++ d ++ rsv

theorem encode_eq (i : Instr) :
    encode i = wordOfFields i.opcode (fieldBits i.fields.1) (fieldBits i.fields.2.1) (fieldBits i.fields.2.2.1)
      (fieldBits i.fields.2.2.2) 0#10 := rfl

theorem usedMask_eq (i : Instr) :
    i.usedMask = wordOfFields 0x3F#6 (fieldMask i.fields.1) (fieldMask i.fields.2.1) (fieldMask i.fields.2.2.1)
      (fieldMask i.fields.2.2.2) 0#10 := rfl

section
variable (op : BitVec 6) (a b c d : BitVec 4) (rsv : BitVec 10)

@[simp] theorem opField_wordOfFields : opField (wordOfFields op a b c d rsv) = op := by
  ext k hk
  simp only [opField, wordOfFields, BitVec.getElem_extractLsb', BitVec.getLsbD_append]
  simp [show ¬ 26 + k < 10 by omega, show ¬ 26 + k - 10 < 4 by omega, show ¬ 26 + k - 10 - 4 < 4 by omega,
    show ¬ 26 + k - 10 - 4 - 4 < 4 by omega, show ¬ 26 + k - 10 - 4 - 4 - 4 < 4 by omega,
    show 26 + k - 10 - 4 - 4 - 4 - 4 = k by omega, hk]

@[simp] theorem rdField_wordOfFields : rdField (wordOfFields op a b c d rsv) = a.toFin := by
  unfold rdField
  congr 1
  ext k hk
  simp only [wordOfFields, BitVec.getElem_extractLsb', BitVec.getLsbD_append]
  simp [show ¬ 22 + k < 10 by omega, show ¬ 22 + k - 10 < 4 by omega, show ¬ 22 + k - 10 - 4 < 4 by omega,
    show ¬ 22 + k - 10 - 4 - 4 < 4 by omega, show 22 + k - 10 - 4 - 4 - 4 = k by omega, hk]

@[simp] theorem rs1Field_wordOfFields : rs1Field (wordOfFields op a b c d rsv) = b.toFin := by
  unfold rs1Field
  congr 1
  ext k hk
  simp only [wordOfFields, BitVec.getElem_extractLsb', BitVec.getLsbD_append]
  simp [show ¬ 18 + k < 10 by omega, show ¬ 18 + k - 10 < 4 by omega, show ¬ 18 + k - 10 - 4 < 4 by omega,
    show 18 + k - 10 - 4 - 4 = k by omega, hk]

@[simp] theorem rs2Field_wordOfFields : rs2Field (wordOfFields op a b c d rsv) = c.toFin := by
  unfold rs2Field
  congr 1
  ext k hk
  simp only [wordOfFields, BitVec.getElem_extractLsb', BitVec.getLsbD_append]
  simp [show ¬ 14 + k < 10 by omega, show ¬ 14 + k - 10 < 4 by omega, show 14 + k - 10 - 4 = k by omega, hk]

@[simp] theorem rs3Field_wordOfFields : rs3Field (wordOfFields op a b c d rsv) = d.toFin := by
  unfold rs3Field
  congr 1
  ext k hk
  simp only [wordOfFields, BitVec.getElem_extractLsb', BitVec.getLsbD_append]
  simp [show ¬ 10 + k < 10 by omega, show 10 + k - 10 = k by omega, hk]

end

@[simp] theorem toFin_fieldBits_some (ρ : Reg) : (fieldBits (some ρ)).toFin = ρ := rfl

/-- The opcode of an encoded command is the one of 30_encoding.md R75. -/
@[simp] theorem opField_encode (i : Instr) : opField (encode i) = i.opcode := by rw [encode_eq, opField_wordOfFields]

end Sys2Proof
end

