-- ==== Sys2Proof/Laws/State.lean ====
section
/-! SUPPORT. What each update of State leaves in each field, true by definition, so that no later proof unfolds an update:
one lemma per field per update; and the same of STATUS. -/

namespace Sys2Proof.Machine

variable (s : State)

/-! `State.writeReg` -/

@[simp] theorem State.writeReg_par (ρ : Reg) (v : Nat) : (s.writeReg ρ v).par = s.par := rfl
@[simp] theorem State.writeReg_x (ρ : Reg) (v : Nat) : (s.writeReg ρ v).x = s.x.set ρ v := rfl
@[simp] theorem State.writeReg_ctrl (ρ : Reg) (v : Nat) : (s.writeReg ρ v).ctrl = s.ctrl := rfl
@[simp] theorem State.writeReg_status (ρ : Reg) (v : Nat) : (s.writeReg ρ v).status = s.status := rfl
@[simp] theorem State.writeReg_arg (ρ : Reg) (v : Nat) : (s.writeReg ρ v).arg = s.arg := rfl
@[simp] theorem State.writeReg_cmd (ρ : Reg) (v : Nat) : (s.writeReg ρ v).cmd = s.cmd := rfl
@[simp] theorem State.writeReg_reslen (ρ : Reg) (v : Nat) : (s.writeReg ρ v).reslen = s.reslen := rfl
@[simp] theorem State.writeReg_maxtry (ρ : Reg) (v : Nat) : (s.writeReg ρ v).maxtry = s.maxtry := rfl
@[simp] theorem State.writeReg_trycnt (ρ : Reg) (v : Nat) : (s.writeReg ρ v).trycnt = s.trycnt := rfl
@[simp] theorem State.writeReg_rndcnt (ρ : Reg) (v : Nat) : (s.writeReg ρ v).rndcnt = s.rndcnt := rfl
@[simp] theorem State.writeReg_rng (ρ : Reg) (v : Nat) : (s.writeReg ρ v).rng = s.rng := rfl
@[simp] theorem State.writeReg_ctl (ρ : Reg) (v : Nat) : (s.writeReg ρ v).ctl = s.ctl := rfl
@[simp] theorem State.writeReg_env (ρ : Reg) (v : Nat) : (s.writeReg ρ v).env = s.env := rfl

/-! `State.complete` -/

@[simp] theorem State.complete_par (e : ErrCode) : (s.complete e).par = s.par := rfl
@[simp] theorem State.complete_x (e : ErrCode) : (s.complete e).x = s.x := rfl
@[simp] theorem State.complete_ctrl (e : ErrCode) : (s.complete e).ctrl = s.ctrl := rfl
@[simp] theorem State.complete_status (e : ErrCode) : (s.complete e).status = s.status.completed e := rfl
@[simp] theorem State.complete_arg (e : ErrCode) : (s.complete e).arg = s.arg := rfl
@[simp] theorem State.complete_cmd (e : ErrCode) : (s.complete e).cmd = s.cmd := rfl
@[simp] theorem State.complete_reslen (e : ErrCode) : (s.complete e).reslen = s.reslen := rfl
@[simp] theorem State.complete_maxtry (e : ErrCode) : (s.complete e).maxtry = s.maxtry := rfl
@[simp] theorem State.complete_trycnt (e : ErrCode) : (s.complete e).trycnt = s.trycnt := rfl
@[simp] theorem State.complete_rndcnt (e : ErrCode) : (s.complete e).rndcnt = s.rndcnt := rfl
@[simp] theorem State.complete_rng (e : ErrCode) : (s.complete e).rng = s.rng := rfl
@[simp] theorem State.complete_ctl (e : ErrCode) : (s.complete e).ctl = .idle := rfl
@[simp] theorem State.complete_env (e : ErrCode) : (s.complete e).env = s.env := rfl

/-! `State.commit` -/

@[simp] theorem State.commit_par : (s.commit).par = s.par := rfl
@[simp] theorem State.commit_x : (s.commit).x = s.x := rfl
@[simp] theorem State.commit_ctrl : (s.commit).ctrl = s.ctrl := rfl
@[simp] theorem State.commit_status : (s.commit).status = s.status.completed .ok := rfl
@[simp] theorem State.commit_arg : (s.commit).arg = s.arg := rfl
@[simp] theorem State.commit_cmd : (s.commit).cmd = s.cmd := rfl
@[simp] theorem State.commit_reslen : (s.commit).reslen = s.reslen := rfl
@[simp] theorem State.commit_maxtry : (s.commit).maxtry = s.maxtry := rfl
@[simp] theorem State.commit_trycnt : (s.commit).trycnt = s.trycnt := rfl
@[simp] theorem State.commit_rndcnt : (s.commit).rndcnt = s.rndcnt := rfl
@[simp] theorem State.commit_rng : (s.commit).rng = s.rng := rfl
@[simp] theorem State.commit_ctl : (s.commit).ctl = .idle := rfl
@[simp] theorem State.commit_env : (s.commit).env = s.env := rfl

/-! `State.raise` -/

@[simp] theorem State.raise_par (e : ErrCode) : (s.raise e).par = s.par := rfl
@[simp] theorem State.raise_x (e : ErrCode) : (s.raise e).x = s.x := rfl
@[simp] theorem State.raise_ctrl (e : ErrCode) : (s.raise e).ctrl = s.ctrl := rfl
@[simp] theorem State.raise_status (e : ErrCode) : (s.raise e).status = s.status.completed e := rfl
@[simp] theorem State.raise_arg (e : ErrCode) : (s.raise e).arg = s.arg := rfl
@[simp] theorem State.raise_cmd (e : ErrCode) : (s.raise e).cmd = s.cmd := rfl
@[simp] theorem State.raise_reslen (e : ErrCode) : (s.raise e).reslen = s.reslen := rfl
@[simp] theorem State.raise_maxtry (e : ErrCode) : (s.raise e).maxtry = s.maxtry := rfl
@[simp] theorem State.raise_trycnt (e : ErrCode) : (s.raise e).trycnt = s.trycnt := rfl
@[simp] theorem State.raise_rndcnt (e : ErrCode) : (s.raise e).rndcnt = s.rndcnt := rfl
@[simp] theorem State.raise_rng (e : ErrCode) : (s.raise e).rng = s.rng := rfl
@[simp] theorem State.raise_ctl (e : ErrCode) : (s.raise e).ctl = .idle := rfl
@[simp] theorem State.raise_env (e : ErrCode) : (s.raise e).env = s.env := rfl

/-! `State.commitReg` -/

@[simp] theorem State.commitReg_par (rd : Reg) (v : Nat) : (s.commitReg rd v).par = s.par := rfl
@[simp] theorem State.commitReg_x (rd : Reg) (v : Nat) : (s.commitReg rd v).x = s.x.set rd v := rfl
@[simp] theorem State.commitReg_ctrl (rd : Reg) (v : Nat) : (s.commitReg rd v).ctrl = s.ctrl := rfl
@[simp] theorem State.commitReg_status (rd : Reg) (v : Nat) : (s.commitReg rd v).status = s.status.completed .ok := rfl
@[simp] theorem State.commitReg_arg (rd : Reg) (v : Nat) : (s.commitReg rd v).arg = s.arg := rfl
@[simp] theorem State.commitReg_cmd (rd : Reg) (v : Nat) : (s.commitReg rd v).cmd = s.cmd := rfl
@[simp] theorem State.commitReg_reslen (rd : Reg) (v : Nat) : (s.commitReg rd v).reslen = s.reslen := rfl
@[simp] theorem State.commitReg_maxtry (rd : Reg) (v : Nat) : (s.commitReg rd v).maxtry = s.maxtry := rfl
@[simp] theorem State.commitReg_trycnt (rd : Reg) (v : Nat) : (s.commitReg rd v).trycnt = s.trycnt := rfl
@[simp] theorem State.commitReg_rndcnt (rd : Reg) (v : Nat) : (s.commitReg rd v).rndcnt = s.rndcnt := rfl
@[simp] theorem State.commitReg_rng (rd : Reg) (v : Nat) : (s.commitReg rd v).rng = s.rng := rfl
@[simp] theorem State.commitReg_ctl (rd : Reg) (v : Nat) : (s.commitReg rd v).ctl = .idle := rfl
@[simp] theorem State.commitReg_env (rd : Reg) (v : Nat) : (s.commitReg rd v).env = s.env := rfl

/-! `State.setProgress` -/

@[simp] theorem State.setProgress_par (r : Running) (p : Progress) : (s.setProgress r p).par = s.par := rfl
@[simp] theorem State.setProgress_x (r : Running) (p : Progress) : (s.setProgress r p).x = s.x := rfl
@[simp] theorem State.setProgress_ctrl (r : Running) (p : Progress) : (s.setProgress r p).ctrl = s.ctrl := rfl
@[simp] theorem State.setProgress_status (r : Running) (p : Progress) : (s.setProgress r p).status = s.status := rfl
@[simp] theorem State.setProgress_arg (r : Running) (p : Progress) : (s.setProgress r p).arg = s.arg := rfl
@[simp] theorem State.setProgress_cmd (r : Running) (p : Progress) : (s.setProgress r p).cmd = s.cmd := rfl
@[simp] theorem State.setProgress_reslen (r : Running) (p : Progress) : (s.setProgress r p).reslen = s.reslen := rfl
@[simp] theorem State.setProgress_maxtry (r : Running) (p : Progress) : (s.setProgress r p).maxtry = s.maxtry := rfl
@[simp] theorem State.setProgress_trycnt (r : Running) (p : Progress) : (s.setProgress r p).trycnt = s.trycnt := rfl
@[simp] theorem State.setProgress_rndcnt (r : Running) (p : Progress) : (s.setProgress r p).rndcnt = s.rndcnt := rfl
@[simp] theorem State.setProgress_rng (r : Running) (p : Progress) : (s.setProgress r p).rng = s.rng := rfl
@[simp] theorem State.setProgress_ctl (r : Running) (p : Progress) : (s.setProgress r p).ctl = .busy { r with progress := p } := rfl
@[simp] theorem State.setProgress_env (r : Running) (p : Progress) : (s.setProgress r p).env = s.env := rfl

/-! `State.setRng` -/

@[simp] theorem State.setRng_par (v : Rng) : (s.setRng v).par = s.par := rfl
@[simp] theorem State.setRng_x (v : Rng) : (s.setRng v).x = s.x := rfl
@[simp] theorem State.setRng_ctrl (v : Rng) : (s.setRng v).ctrl = s.ctrl := rfl
@[simp] theorem State.setRng_status (v : Rng) : (s.setRng v).status = s.status := rfl
@[simp] theorem State.setRng_arg (v : Rng) : (s.setRng v).arg = s.arg := rfl
@[simp] theorem State.setRng_cmd (v : Rng) : (s.setRng v).cmd = s.cmd := rfl
@[simp] theorem State.setRng_reslen (v : Rng) : (s.setRng v).reslen = s.reslen := rfl
@[simp] theorem State.setRng_maxtry (v : Rng) : (s.setRng v).maxtry = s.maxtry := rfl
@[simp] theorem State.setRng_trycnt (v : Rng) : (s.setRng v).trycnt = s.trycnt := rfl
@[simp] theorem State.setRng_rndcnt (v : Rng) : (s.setRng v).rndcnt = s.rndcnt := rfl
@[simp] theorem State.setRng_rng (v : Rng) : (s.setRng v).rng = v := rfl
@[simp] theorem State.setRng_ctl (v : Rng) : (s.setRng v).ctl = s.ctl := rfl
@[simp] theorem State.setRng_env (v : Rng) : (s.setRng v).env = s.env := rfl

/-! `State.countRound` -/

@[simp] theorem State.countRound_par : (s.countRound).par = s.par := rfl
@[simp] theorem State.countRound_x : (s.countRound).x = s.x := rfl
@[simp] theorem State.countRound_ctrl : (s.countRound).ctrl = s.ctrl := rfl
@[simp] theorem State.countRound_status : (s.countRound).status = s.status := rfl
@[simp] theorem State.countRound_arg : (s.countRound).arg = s.arg := rfl
@[simp] theorem State.countRound_cmd : (s.countRound).cmd = s.cmd := rfl
@[simp] theorem State.countRound_reslen : (s.countRound).reslen = s.reslen := rfl
@[simp] theorem State.countRound_maxtry : (s.countRound).maxtry = s.maxtry := rfl
@[simp] theorem State.countRound_trycnt : (s.countRound).trycnt = s.trycnt := rfl
@[simp] theorem State.countRound_rndcnt : (s.countRound).rndcnt = s.rndcnt + 1#32 := rfl
@[simp] theorem State.countRound_rng : (s.countRound).rng = s.rng := rfl
@[simp] theorem State.countRound_ctl : (s.countRound).ctl = s.ctl := rfl
@[simp] theorem State.countRound_env : (s.countRound).env = s.env := rfl

/-! `State.setTries` -/

@[simp] theorem State.setTries_par (t : Nat) : (s.setTries t).par = s.par := rfl
@[simp] theorem State.setTries_x (t : Nat) : (s.setTries t).x = s.x := rfl
@[simp] theorem State.setTries_ctrl (t : Nat) : (s.setTries t).ctrl = s.ctrl := rfl
@[simp] theorem State.setTries_status (t : Nat) : (s.setTries t).status = s.status := rfl
@[simp] theorem State.setTries_arg (t : Nat) : (s.setTries t).arg = s.arg := rfl
@[simp] theorem State.setTries_cmd (t : Nat) : (s.setTries t).cmd = s.cmd := rfl
@[simp] theorem State.setTries_reslen (t : Nat) : (s.setTries t).reslen = s.reslen := rfl
@[simp] theorem State.setTries_maxtry (t : Nat) : (s.setTries t).maxtry = s.maxtry := rfl
@[simp] theorem State.setTries_trycnt (t : Nat) : (s.setTries t).trycnt = BitVec.ofNat 32 t := rfl
@[simp] theorem State.setTries_rndcnt (t : Nat) : (s.setTries t).rndcnt = s.rndcnt := rfl
@[simp] theorem State.setTries_rng (t : Nat) : (s.setTries t).rng = s.rng := rfl
@[simp] theorem State.setTries_ctl (t : Nat) : (s.setTries t).ctl = s.ctl := rfl
@[simp] theorem State.setTries_env (t : Nat) : (s.setTries t).env = s.env := rfl

/-! `State.setOvr` -/

@[simp] theorem State.setOvr_par : (s.setOvr).par = s.par := rfl
@[simp] theorem State.setOvr_x : (s.setOvr).x = s.x := rfl
@[simp] theorem State.setOvr_ctrl : (s.setOvr).ctrl = s.ctrl := rfl
@[simp] theorem State.setOvr_status : (s.setOvr).status = { s.status with ovr := true } := rfl
@[simp] theorem State.setOvr_arg : (s.setOvr).arg = s.arg := rfl
@[simp] theorem State.setOvr_cmd : (s.setOvr).cmd = s.cmd := rfl
@[simp] theorem State.setOvr_reslen : (s.setOvr).reslen = s.reslen := rfl
@[simp] theorem State.setOvr_maxtry : (s.setOvr).maxtry = s.maxtry := rfl
@[simp] theorem State.setOvr_trycnt : (s.setOvr).trycnt = s.trycnt := rfl
@[simp] theorem State.setOvr_rndcnt : (s.setOvr).rndcnt = s.rndcnt := rfl
@[simp] theorem State.setOvr_rng : (s.setOvr).rng = s.rng := rfl
@[simp] theorem State.setOvr_ctl : (s.setOvr).ctl = s.ctl := rfl
@[simp] theorem State.setOvr_env : (s.setOvr).env = s.env := rfl

/-! `State.setBerr` -/

@[simp] theorem State.setBerr_par : (s.setBerr).par = s.par := rfl
@[simp] theorem State.setBerr_x : (s.setBerr).x = s.x := rfl
@[simp] theorem State.setBerr_ctrl : (s.setBerr).ctrl = s.ctrl := rfl
@[simp] theorem State.setBerr_status : (s.setBerr).status = { s.status with berr := true } := rfl
@[simp] theorem State.setBerr_arg : (s.setBerr).arg = s.arg := rfl
@[simp] theorem State.setBerr_cmd : (s.setBerr).cmd = s.cmd := rfl
@[simp] theorem State.setBerr_reslen : (s.setBerr).reslen = s.reslen := rfl
@[simp] theorem State.setBerr_maxtry : (s.setBerr).maxtry = s.maxtry := rfl
@[simp] theorem State.setBerr_trycnt : (s.setBerr).trycnt = s.trycnt := rfl
@[simp] theorem State.setBerr_rndcnt : (s.setBerr).rndcnt = s.rndcnt := rfl
@[simp] theorem State.setBerr_rng : (s.setBerr).rng = s.rng := rfl
@[simp] theorem State.setBerr_ctl : (s.setBerr).ctl = s.ctl := rfl
@[simp] theorem State.setBerr_env : (s.setBerr).env = s.env := rfl

/-! `State.answer` -/

@[simp] theorem State.answer_par (v : Resp) : (s.answer v).par = s.par := rfl
@[simp] theorem State.answer_x (v : Resp) : (s.answer v).x = s.x := rfl
@[simp] theorem State.answer_ctrl (v : Resp) : (s.answer v).ctrl = s.ctrl := rfl
@[simp] theorem State.answer_status (v : Resp) : (s.answer v).status = s.status := rfl
@[simp] theorem State.answer_arg (v : Resp) : (s.answer v).arg = s.arg := rfl
@[simp] theorem State.answer_cmd (v : Resp) : (s.answer v).cmd = s.cmd := rfl
@[simp] theorem State.answer_reslen (v : Resp) : (s.answer v).reslen = s.reslen := rfl
@[simp] theorem State.answer_maxtry (v : Resp) : (s.answer v).maxtry = s.maxtry := rfl
@[simp] theorem State.answer_trycnt (v : Resp) : (s.answer v).trycnt = s.trycnt := rfl
@[simp] theorem State.answer_rndcnt (v : Resp) : (s.answer v).rndcnt = s.rndcnt := rfl
@[simp] theorem State.answer_rng (v : Resp) : (s.answer v).rng = s.rng := rfl
@[simp] theorem State.answer_ctl (v : Resp) : (s.answer v).ctl = s.ctl := rfl
@[simp] theorem State.answer_env (v : Resp) : (s.answer v).env = { s.env with resp := v } := rfl

/-! `State.withEvents` -/

@[simp] theorem State.withEvents_par (es : List Event) : (s.withEvents es).par = s.par := rfl
@[simp] theorem State.withEvents_x (es : List Event) : (s.withEvents es).x = s.x := rfl
@[simp] theorem State.withEvents_ctrl (es : List Event) : (s.withEvents es).ctrl = s.ctrl := rfl
@[simp] theorem State.withEvents_status (es : List Event) : (s.withEvents es).status = s.status := rfl
@[simp] theorem State.withEvents_arg (es : List Event) : (s.withEvents es).arg = s.arg := rfl
@[simp] theorem State.withEvents_cmd (es : List Event) : (s.withEvents es).cmd = s.cmd := rfl
@[simp] theorem State.withEvents_reslen (es : List Event) : (s.withEvents es).reslen = s.reslen := rfl
@[simp] theorem State.withEvents_maxtry (es : List Event) : (s.withEvents es).maxtry = s.maxtry := rfl
@[simp] theorem State.withEvents_trycnt (es : List Event) : (s.withEvents es).trycnt = s.trycnt := rfl
@[simp] theorem State.withEvents_rndcnt (es : List Event) : (s.withEvents es).rndcnt = s.rndcnt := rfl
@[simp] theorem State.withEvents_rng (es : List Event) : (s.withEvents es).rng = s.rng := rfl
@[simp] theorem State.withEvents_ctl (es : List Event) : (s.withEvents es).ctl = s.ctl := rfl
@[simp] theorem State.withEvents_env (es : List Event) : (s.withEvents es).env = { s.env with events := es } := rfl

/-! `State.commitVerdict` -/

@[simp] theorem State.commitVerdict_par (rd : Reg) (v : Bool) : (s.commitVerdict rd v).par = s.par := rfl
@[simp] theorem State.commitVerdict_x (rd : Reg) (v : Bool) : (s.commitVerdict rd v).x = s.x.set rd v.toNat := rfl
@[simp] theorem State.commitVerdict_ctrl (rd : Reg) (v : Bool) : (s.commitVerdict rd v).ctrl = s.ctrl := rfl
@[simp] theorem State.commitVerdict_status (rd : Reg) (v : Bool) : (s.commitVerdict rd v).status = (s.status.withRes v).completed .ok := rfl
@[simp] theorem State.commitVerdict_arg (rd : Reg) (v : Bool) : (s.commitVerdict rd v).arg = s.arg := rfl
@[simp] theorem State.commitVerdict_cmd (rd : Reg) (v : Bool) : (s.commitVerdict rd v).cmd = s.cmd := rfl
@[simp] theorem State.commitVerdict_reslen (rd : Reg) (v : Bool) : (s.commitVerdict rd v).reslen = s.reslen := rfl
@[simp] theorem State.commitVerdict_maxtry (rd : Reg) (v : Bool) : (s.commitVerdict rd v).maxtry = s.maxtry := rfl
@[simp] theorem State.commitVerdict_trycnt (rd : Reg) (v : Bool) : (s.commitVerdict rd v).trycnt = s.trycnt := rfl
@[simp] theorem State.commitVerdict_rndcnt (rd : Reg) (v : Bool) : (s.commitVerdict rd v).rndcnt = s.rndcnt := rfl
@[simp] theorem State.commitVerdict_rng (rd : Reg) (v : Bool) : (s.commitVerdict rd v).rng = s.rng := rfl
@[simp] theorem State.commitVerdict_ctl (rd : Reg) (v : Bool) : (s.commitVerdict rd v).ctl = .idle := rfl
@[simp] theorem State.commitVerdict_env (rd : Reg) (v : Bool) : (s.commitVerdict rd v).env = s.env := rfl

/-! `State.commitPayload` -/

@[simp] theorem State.commitPayload_par (rd : Reg) (m : Nat) (b : Byte) : (s.commitPayload rd m b).par = s.par := rfl
@[simp] theorem State.commitPayload_x (rd : Reg) (m : Nat) (b : Byte) : (s.commitPayload rd m b).x = s.x.set rd (payloadOf m) := rfl
@[simp] theorem State.commitPayload_ctrl (rd : Reg) (m : Nat) (b : Byte) : (s.commitPayload rd m b).ctrl = s.ctrl := rfl
@[simp] theorem State.commitPayload_status (rd : Reg) (m : Nat) (b : Byte) : (s.commitPayload rd m b).status = (s.status.withSm (leadByte m) b).completed .ok := rfl
@[simp] theorem State.commitPayload_arg (rd : Reg) (m : Nat) (b : Byte) : (s.commitPayload rd m b).arg = s.arg := rfl
@[simp] theorem State.commitPayload_cmd (rd : Reg) (m : Nat) (b : Byte) : (s.commitPayload rd m b).cmd = s.cmd := rfl
@[simp] theorem State.commitPayload_reslen (rd : Reg) (m : Nat) (b : Byte) : (s.commitPayload rd m b).reslen = BitVec.ofNat 32 (bytelen m - 1) := rfl
@[simp] theorem State.commitPayload_maxtry (rd : Reg) (m : Nat) (b : Byte) : (s.commitPayload rd m b).maxtry = s.maxtry := rfl
@[simp] theorem State.commitPayload_trycnt (rd : Reg) (m : Nat) (b : Byte) : (s.commitPayload rd m b).trycnt = s.trycnt := rfl
@[simp] theorem State.commitPayload_rndcnt (rd : Reg) (m : Nat) (b : Byte) : (s.commitPayload rd m b).rndcnt = s.rndcnt := rfl
@[simp] theorem State.commitPayload_rng (rd : Reg) (m : Nat) (b : Byte) : (s.commitPayload rd m b).rng = s.rng := rfl
@[simp] theorem State.commitPayload_ctl (rd : Reg) (m : Nat) (b : Byte) : (s.commitPayload rd m b).ctl = .idle := rfl
@[simp] theorem State.commitPayload_env (rd : Reg) (m : Nat) (b : Byte) : (s.commitPayload rd m b).env = s.env := rfl

/-! `State.accept` -/

@[simp] theorem State.accept_par (cw : Word) : (s.accept cw).par = s.par := rfl
@[simp] theorem State.accept_x (cw : Word) : (s.accept cw).x = s.x := rfl
@[simp] theorem State.accept_ctrl (cw : Word) : (s.accept cw).ctrl = s.ctrl := rfl
@[simp] theorem State.accept_status (cw : Word) : (s.accept cw).status = s.status.accepted := rfl
@[simp] theorem State.accept_arg (cw : Word) : (s.accept cw).arg = s.arg := rfl
@[simp] theorem State.accept_cmd (cw : Word) : (s.accept cw).cmd = cw := rfl
@[simp] theorem State.accept_reslen (cw : Word) : (s.accept cw).reslen = s.reslen := rfl
@[simp] theorem State.accept_maxtry (cw : Word) : (s.accept cw).maxtry = s.maxtry := rfl
@[simp] theorem State.accept_trycnt (cw : Word) : (s.accept cw).trycnt = if clearsTries cw then 0#32 else s.trycnt := rfl
@[simp] theorem State.accept_rndcnt (cw : Word) : (s.accept cw).rndcnt = if clearsRounds cw then 0#32 else s.rndcnt := rfl
@[simp] theorem State.accept_rng (cw : Word) : (s.accept cw).rng = s.rng := rfl
@[simp] theorem State.accept_ctl (cw : Word) : (s.accept cw).ctl = .busy (s.latch cw) := rfl
@[simp] theorem State.accept_env (cw : Word) : (s.accept cw).env = s.env := rfl

/-! `State.doReset` -/

@[simp] theorem State.doReset_par : s.doReset.par = s.par := rfl
@[simp] theorem State.doReset_x : s.doReset.x = Vector.replicate 16 0 := rfl
@[simp] theorem State.doReset_ctrl : s.doReset.ctrl = Ctrl.reset := rfl
@[simp] theorem State.doReset_status : s.doReset.status = Status.reset := rfl
@[simp] theorem State.doReset_arg : s.doReset.arg = 0#32 := rfl
@[simp] theorem State.doReset_cmd : s.doReset.cmd = 0#32 := rfl
@[simp] theorem State.doReset_reslen : s.doReset.reslen = 0#32 := rfl
@[simp] theorem State.doReset_maxtry : s.doReset.maxtry = 0#32 := rfl
@[simp] theorem State.doReset_trycnt : s.doReset.trycnt = 0#32 := rfl
@[simp] theorem State.doReset_rndcnt : s.doReset.rndcnt = 0#32 := rfl
@[simp] theorem State.doReset_rng : s.doReset.rng = .unseeded := rfl
@[simp] theorem State.doReset_ctl : s.doReset.ctl = .idle := rfl
@[simp] theorem State.doReset_env : s.doReset.env = s.env := rfl

/-! `State.requestAbort` -/

@[simp] theorem State.requestAbort_par : s.requestAbort.par = s.par := by unfold State.requestAbort; split <;> rfl
@[simp] theorem State.requestAbort_x : s.requestAbort.x = s.x := by unfold State.requestAbort; split <;> rfl
@[simp] theorem State.requestAbort_ctrl : s.requestAbort.ctrl = s.ctrl := by unfold State.requestAbort; split <;> rfl
@[simp] theorem State.requestAbort_status : s.requestAbort.status = s.status := by unfold State.requestAbort; split <;> rfl
@[simp] theorem State.requestAbort_arg : s.requestAbort.arg = s.arg := by unfold State.requestAbort; split <;> rfl
@[simp] theorem State.requestAbort_cmd : s.requestAbort.cmd = s.cmd := by unfold State.requestAbort; split <;> rfl
@[simp] theorem State.requestAbort_reslen : s.requestAbort.reslen = s.reslen := by unfold State.requestAbort; split <;> rfl
@[simp] theorem State.requestAbort_maxtry : s.requestAbort.maxtry = s.maxtry := by unfold State.requestAbort; split <;> rfl
@[simp] theorem State.requestAbort_trycnt : s.requestAbort.trycnt = s.trycnt := by unfold State.requestAbort; split <;> rfl
@[simp] theorem State.requestAbort_rndcnt : s.requestAbort.rndcnt = s.rndcnt := by unfold State.requestAbort; split <;> rfl
@[simp] theorem State.requestAbort_rng : s.requestAbort.rng = s.rng := by unfold State.requestAbort; split <;> rfl
@[simp] theorem State.requestAbort_env : s.requestAbort.env = s.env := by unfold State.requestAbort; split <;> rfl

theorem State.requestAbort_ctl_busy {s : State} {r : Running} (h : s.ctl = .busy r) :
    s.requestAbort.ctl = .busy { r with abortReq := true } := by
  simp only [State.requestAbort, h]

theorem State.requestAbort_ctl_idle {s : State} (h : s.ctl = .idle) : s.requestAbort.ctl = .idle := by
  simp only [State.requestAbort, h]

variable (st : Status)

/-! `Status.completed` -/

@[simp] theorem Status.completed_done (e : ErrCode) : (st.completed e).done = true := rfl
@[simp] theorem Status.completed_err (e : ErrCode) : (st.completed e).err = e := rfl
@[simp] theorem Status.completed_res (e : ErrCode) : (st.completed e).res = st.res := rfl
@[simp] theorem Status.completed_eq (e : ErrCode) : (st.completed e).eq = st.eq := rfl
@[simp] theorem Status.completed_lt (e : ErrCode) : (st.completed e).lt = st.lt := rfl
@[simp] theorem Status.completed_sm (e : ErrCode) : (st.completed e).sm = st.sm := rfl
@[simp] theorem Status.completed_ovr (e : ErrCode) : (st.completed e).ovr = st.ovr := rfl
@[simp] theorem Status.completed_berr (e : ErrCode) : (st.completed e).berr = st.berr := rfl

/-! `Status.accepted` -/

@[simp] theorem Status.accepted_done : (st.accepted).done = false := rfl
@[simp] theorem Status.accepted_err : (st.accepted).err = .ok := rfl
@[simp] theorem Status.accepted_res : (st.accepted).res = st.res := rfl
@[simp] theorem Status.accepted_eq : (st.accepted).eq = st.eq := rfl
@[simp] theorem Status.accepted_lt : (st.accepted).lt = st.lt := rfl
@[simp] theorem Status.accepted_sm : (st.accepted).sm = st.sm := rfl
@[simp] theorem Status.accepted_ovr : (st.accepted).ovr = st.ovr := rfl
@[simp] theorem Status.accepted_berr : (st.accepted).berr = st.berr := rfl

/-! `Status.compared` -/

@[simp] theorem Status.compared_done (a b : Nat) : (st.compared a b).done = st.done := rfl
@[simp] theorem Status.compared_err (a b : Nat) : (st.compared a b).err = st.err := rfl
@[simp] theorem Status.compared_res (a b : Nat) : (st.compared a b).res = st.res := rfl
@[simp] theorem Status.compared_eq (a b : Nat) : (st.compared a b).eq = decide (a = b) := rfl
@[simp] theorem Status.compared_lt (a b : Nat) : (st.compared a b).lt = decide (a < b) := rfl
@[simp] theorem Status.compared_sm (a b : Nat) : (st.compared a b).sm = st.sm := rfl
@[simp] theorem Status.compared_ovr (a b : Nat) : (st.compared a b).ovr = st.ovr := rfl
@[simp] theorem Status.compared_berr (a b : Nat) : (st.compared a b).berr = st.berr := rfl

/-! `Status.withRes` -/

@[simp] theorem Status.withRes_done (v : Bool) : (st.withRes v).done = st.done := rfl
@[simp] theorem Status.withRes_err (v : Bool) : (st.withRes v).err = st.err := rfl
@[simp] theorem Status.withRes_res (v : Bool) : (st.withRes v).res = v := rfl
@[simp] theorem Status.withRes_eq (v : Bool) : (st.withRes v).eq = st.eq := rfl
@[simp] theorem Status.withRes_lt (v : Bool) : (st.withRes v).lt = st.lt := rfl
@[simp] theorem Status.withRes_sm (v : Bool) : (st.withRes v).sm = st.sm := rfl
@[simp] theorem Status.withRes_ovr (v : Bool) : (st.withRes v).ovr = st.ovr := rfl
@[simp] theorem Status.withRes_berr (v : Bool) : (st.withRes v).berr = st.berr := rfl

/-! `Status.withSm` -/

@[simp] theorem Status.withSm_done (m : Nat) (b : Byte) : (st.withSm m b).done = st.done := rfl
@[simp] theorem Status.withSm_err (m : Nat) (b : Byte) : (st.withSm m b).err = st.err := rfl
@[simp] theorem Status.withSm_res (m : Nat) (b : Byte) : (st.withSm m b).res = st.res := rfl
@[simp] theorem Status.withSm_eq (m : Nat) (b : Byte) : (st.withSm m b).eq = st.eq := rfl
@[simp] theorem Status.withSm_lt (m : Nat) (b : Byte) : (st.withSm m b).lt = st.lt := rfl
@[simp] theorem Status.withSm_sm (m : Nat) (b : Byte) : (st.withSm m b).sm = decide (m ≠ b.toNat) := rfl
@[simp] theorem Status.withSm_ovr (m : Nat) (b : Byte) : (st.withSm m b).ovr = st.ovr := rfl
@[simp] theorem Status.withSm_berr (m : Nat) (b : Byte) : (st.withSm m b).berr = st.berr := rfl

/-! `Status.clearWritten` -/

@[simp] theorem Status.clearWritten_done (v : Word) : (st.clearWritten v).done = (st.done && !v.getLsbD 1) := rfl
@[simp] theorem Status.clearWritten_err (v : Word) : (st.clearWritten v).err = st.err := rfl
@[simp] theorem Status.clearWritten_res (v : Word) : (st.clearWritten v).res = st.res := rfl
@[simp] theorem Status.clearWritten_eq (v : Word) : (st.clearWritten v).eq = st.eq := rfl
@[simp] theorem Status.clearWritten_lt (v : Word) : (st.clearWritten v).lt = st.lt := rfl
@[simp] theorem Status.clearWritten_sm (v : Word) : (st.clearWritten v).sm = st.sm := rfl
@[simp] theorem Status.clearWritten_ovr (v : Word) : (st.clearWritten v).ovr = (st.ovr && !v.getLsbD 12) := rfl
@[simp] theorem Status.clearWritten_berr (v : Word) : (st.clearWritten v).berr = (st.berr && !v.getLsbD 13) := rfl

/-! The register file and the computed values. -/

/-- Read after write (10_state.md R21): the register written holds the value, every other holds what it held. -/
@[simp] theorem State.readReg_writeReg (ρ τ : Reg) (v : Nat) :
    (s.writeReg ρ v).readReg τ = if τ = ρ then v else s.readReg τ := by
  simp only [State.readReg, State.writeReg, Fin.getElem_fin, Vector.getElem_set, Fin.ext_iff, eq_comm]

/-- The registers are a function of `x` alone. -/
theorem State.readReg_congr {s t : State} (h : t.x = s.x) (ρ : Reg) : t.readReg ρ = s.readReg ρ := by
  simp only [State.readReg, h]

@[simp] theorem State.readReg_complete (e : ErrCode) (ρ : Reg) : (s.complete e).readReg ρ = s.readReg ρ := rfl

@[simp] theorem State.readReg_commit (ρ : Reg) : s.commit.readReg ρ = s.readReg ρ := rfl

@[simp] theorem State.readReg_raise (e : ErrCode) (ρ : Reg) : (s.raise e).readReg ρ = s.readReg ρ := rfl

@[simp] theorem State.readReg_commitReg (rd τ : Reg) (v : Nat) :
    (s.commitReg rd v).readReg τ = if τ = rd then v else s.readReg τ := State.readReg_writeReg s rd τ v

@[simp] theorem State.readReg_commitVerdict (rd τ : Reg) (v : Bool) :
    (s.commitVerdict rd v).readReg τ = if τ = rd then v.toNat else s.readReg τ := State.readReg_writeReg s rd τ v.toNat

@[simp] theorem State.readReg_commitPayload (rd τ : Reg) (m : Nat) (b : Byte) :
    (s.commitPayload rd m b).readReg τ = if τ = rd then payloadOf m else s.readReg τ :=
  State.readReg_writeReg s rd τ (payloadOf m)

@[simp] theorem State.readReg_accept (cw : Word) (ρ : Reg) : (s.accept cw).readReg ρ = s.readReg ρ := rfl

@[simp] theorem State.readReg_doReset (ρ : Reg) : s.doReset.readReg ρ = 0 := by
  simp [State.readReg]

/-- BUSY is the controller phase (10_state.md R30). -/
theorem State.isBusy_of_busy {s : State} {r : Running} (h : s.ctl = .busy r) : s.isBusy = true := by
  simp only [State.isBusy, h]

theorem State.isBusy_of_idle {s : State} (h : s.ctl = .idle) : s.isBusy = false := by
  simp only [State.isBusy, h]

/-- BUSY, as a bit, says exactly that a command is latched (10_state.md R30, R40). -/
theorem State.isBusy_iff {s : State} : s.isBusy = true ↔ ∃ r, s.ctl = .busy r := by
  unfold State.isBusy
  split <;> simp_all

end Sys2Proof.Machine
end

