-- ==== Sys2Proof/Laws/Ops.lean ====
section
/-! SUPPORT. What the shared operations of a command can do: the latch, the running command, and the inversion of a
micro-step and of a step. -/

namespace Sys2Proof.Machine

@[simp] theorem State.latch_cw (s : State) (cw : Word) : (s.latch cw).cw = cw := rfl
@[simp] theorem State.latch_arg (s : State) (cw : Word) : (s.latch cw).arg = s.arg := rfl
@[simp] theorem State.latch_sentinel (s : State) (cw : Word) : (s.latch cw).sentinel = s.ctrl.sentinel := rfl
@[simp] theorem State.latch_maxtry (s : State) (cw : Word) : (s.latch cw).maxtry = s.maxtry := rfl
@[simp] theorem State.latch_progress (s : State) (cw : Word) : (s.latch cw).progress = .start := rfl
@[simp] theorem State.latch_abortReq (s : State) (cw : Word) : (s.latch cw).abortReq = false := rfl
@[simp] theorem State.latch_snapshot (s : State) (cw : Word) : (s.latch cw).snapshot = s.snapshotFor cw := rfl

/-- A snapshot gives each register it holds the value it was taken with. -/
theorem lookup_map_pair (l : List Reg) (f : Reg → Nat) (ρ : Reg) (h : ρ ∈ l) :
    (l.map fun τ => (τ, f τ)).lookup ρ = some (f ρ) := by
  induction l with
  | nil => simp at h
  | cons a l ih =>
    rw [List.map_cons, List.lookup_cons]
    by_cases hc : ρ = a
    · simp [hc]
    · have hb : (ρ == a) = false := by simpa using hc
      rw [hb]
      exact ih (by simpa [hc] using h)

/-- A snapshot taken from a state gives every source register of the command its value there
(70_reset_and_hazards.md R241). -/
theorem Running.src_of_snapshot {r : Running} {s : State} {i : Instr} (hs : r.snapshot = s.snapshotFor r.cw)
    (hd : decode r.cw = .ok i) {ρ : Reg} (h : ρ ∈ i.sources) : r.src ρ = s.readReg ρ := by
  simp [Running.src, hs, State.snapshotFor, hd, lookup_map_pair i.sources s.readReg ρ h]

theorem State.whileBusy_busy {s : State} {r : Running} (h : s.ctl = .busy r) (k : Running → Outcome) :
    s.whileBusy k = k r := by
  simp only [State.whileBusy, h]

theorem State.whileBusy_idle {s : State} (h : s.ctl = .idle) (k : Running → Outcome) : s.whileBusy k = .next s := by
  simp only [State.whileBusy, h]

/-- Everything a micro-step can do (60_exceptions.md R207, R208): nothing while Idle; the abort; ILLEGAL; the command. -/
theorem microStep_cases (s : State) :
    (s.ctl = .idle ∧ microStep s = .next s)
      ∨ (∃ r, s.ctl = .busy r ∧ r.abortReq = true ∧ microStep s = .next (s.raise .aborted))
      ∨ (∃ r d, s.ctl = .busy r ∧ r.abortReq = false ∧ decode r.cw = .error d ∧ microStep s = .next (s.raise .illegal))
      ∨ (∃ r i, s.ctl = .busy r ∧ r.abortReq = false ∧ decode r.cw = .ok i ∧ microStep s = exec i s) := by
  unfold microStep
  split
  · exact .inl ⟨by assumption, rfl⟩
  · rename_i r hr
    refine .inr ?_
    cases ha : r.abortReq
    · refine .inr ?_
      cases hd : decode r.cw with
      | error d => exact .inl ⟨r, d, hr, ha, hd, by simp⟩
      | ok i => exact .inr ⟨r, i, hr, ha, hd, by simp⟩
    · exact .inl ⟨r, hr, ha, by simp⟩

/-- Everything a step can do (00_scope.md R12): a micro-step of its own accord, or the next event. -/
theorem step_cases (s : State) :
    (s.env.events = [] ∧ step s = microStep s)
      ∨ (∃ a es, s.env.events = .access a :: es ∧ step s = .next ((s.withEvents es).hostAccess a))
      ∨ (∃ es, s.env.events = .micro :: es ∧ step s = microStep (s.withEvents es))
      ∨ (∃ es, s.env.events = .powerOn :: es ∧ step s = .next (s.withEvents es).doReset) := by
  unfold step
  split
  · exact .inl ⟨by assumption, rfl⟩
  · rename_i e es he
    cases e with
    | access a => exact .inr (.inl ⟨a, es, he, rfl⟩)
    | micro => exact .inr (.inr (.inl ⟨es, he, rfl⟩))
    | powerOn => exact .inr (.inr (.inr ⟨es, he, rfl⟩))

end Sys2Proof.Machine
end

