-- ==== Sys2Proof/Laws/PerInstr.lean ====
section
/-! SUPPORT. Facts about every command as syntax, one lemma for each constructor. -/

namespace Sys2Proof.Laws

/-- The encoding of a command carries its opcode in bits [31:26] and zeros in `rsv` (30_encoding.md R71, R73). -/
def EncodedOpcode.Statement (i : Instr) : Prop :=
  (encode i).extractLsb' 26 6 = i.opcode ∧ (encode i).extractLsb' 0 10 = 0#10

theorem encodedOpcode_all (i : Instr) : EncodedOpcode.Statement i := by
  refine ⟨opField_encode i, ?_⟩
  ext k hk
  simp only [encode, BitVec.getElem_extractLsb', BitVec.getLsbD_append]
  simp [hk]

theorem EncodedOpcode.nop : EncodedOpcode.Statement .nop := encodedOpcode_all _

theorem EncodedOpcode.ldi (rd : Reg) : EncodedOpcode.Statement (.ldi rd) := encodedOpcode_all _

theorem EncodedOpcode.mov (rd rs1 : Reg) : EncodedOpcode.Statement (.mov rd rs1) := encodedOpcode_all _

theorem EncodedOpcode.add (rd rs1 rs2 : Reg) : EncodedOpcode.Statement (.add rd rs1 rs2) := encodedOpcode_all _

theorem EncodedOpcode.sub (rd rs1 rs2 : Reg) : EncodedOpcode.Statement (.sub rd rs1 rs2) := encodedOpcode_all _

theorem EncodedOpcode.mul (rd rs1 rs2 : Reg) : EncodedOpcode.Statement (.mul rd rs1 rs2) := encodedOpcode_all _

theorem EncodedOpcode.divmod (rd rs1 rs2 rr : Reg) : EncodedOpcode.Statement (.divmod rd rs1 rs2 rr) := encodedOpcode_all _

theorem EncodedOpcode.cmp (rs1 rs2 : Reg) : EncodedOpcode.Statement (.cmp rs1 rs2) := encodedOpcode_all _

theorem EncodedOpcode.bitlen (rd rs1 : Reg) : EncodedOpcode.Statement (.bitlen rd rs1) := encodedOpcode_all _

theorem EncodedOpcode.modmul (rd rs1 rs2 rs3 : Reg) : EncodedOpcode.Statement (.modmul rd rs1 rs2 rs3) := encodedOpcode_all _

theorem EncodedOpcode.seed (rs1 : Reg) : EncodedOpcode.Statement (.seed rs1) := encodedOpcode_all _

theorem EncodedOpcode.rngclr : EncodedOpcode.Statement .rngclr := encodedOpcode_all _

theorem EncodedOpcode.randb (rd : Reg) : EncodedOpcode.Statement (.randb rd) := encodedOpcode_all _

theorem EncodedOpcode.randm (rd rs1 : Reg) : EncodedOpcode.Statement (.randm rd rs1) := encodedOpcode_all _

theorem EncodedOpcode.gcd (rd rs1 rs2 : Reg) : EncodedOpcode.Statement (.gcd rd rs1 rs2) := encodedOpcode_all _

theorem EncodedOpcode.modinv (rd rs1 rs2 : Reg) : EncodedOpcode.Statement (.modinv rd rs1 rs2) := encodedOpcode_all _

theorem EncodedOpcode.powmod (rd rs1 rs2 rs3 : Reg) : EncodedOpcode.Statement (.powmod rd rs1 rs2 rs3) := encodedOpcode_all _

theorem EncodedOpcode.isprime (rd rs1 : Reg) : EncodedOpcode.Statement (.isprime rd rs1) := encodedOpcode_all _

theorem EncodedOpcode.makeprime (rd : Reg) : EncodedOpcode.Statement (.makeprime rd) := encodedOpcode_all _

theorem EncodedOpcode.blksz (rd rs1 : Reg) : EncodedOpcode.Statement (.blksz rd rs1) := encodedOpcode_all _

theorem EncodedOpcode.encrypt (rd rs1 rs2 : Reg) : EncodedOpcode.Statement (.encrypt rd rs1 rs2) := encodedOpcode_all _

theorem EncodedOpcode.decrypt (rd rs1 rs2 rs3 : Reg) : EncodedOpcode.Statement (.decrypt rd rs1 rs2 rs3) := encodedOpcode_all _

end Sys2Proof.Laws
end

