-- ==== Sys2Proof/Laws/Window.lean ====
section
/-! SUPPORT. The register window: the bits of CTRL and STATUS as they read (10_state.md R26, R29), which offset names what,
the words of an operand register (20_memory.md R54), and everything a host access can do. -/

namespace Sys2Proof.Machine

/-! The words of CTRL and STATUS. -/

theorem getLsbD_ofBool (b : Bool) (i : Nat) : (BitVec.ofBool b).getLsbD i = (decide (i = 0) && b) := by
  cases b <;> cases i <;> simp [BitVec.ofBool]

/-- Every bit of CTRL as it reads (10_state.md R26). -/
theorem State.getLsbD_ctrlWord (s : State) (b : Nat) :
    s.ctrlWord.getLsbD b
      = if b = 0 then s.ctrl.ie else if b < 8 then false else if b < 16 then s.ctrl.sentinel.getLsbD (b - 8) else false := by
  have h : s.ctrlWord.getLsbD b = (((0#16 ++ s.ctrl.sentinel) ++ 0#7) ++ BitVec.ofBool s.ctrl.ie).getLsbD b := rfl
  simp only [h, BitVec.getLsbD_append, getLsbD_ofBool, BitVec.getLsbD_zero, Nat.sub_sub]
  split_ifs <;> first | rfl | omega | simp [*]

/-- Every bit of STATUS as it reads (10_state.md R29). -/
theorem State.getLsbD_statusWord (s : State) (b : Nat) :
    s.statusWord.getLsbD b
      = if b = 0 then s.isBusy else if b = 1 then s.status.done else if b < 4 then false
        else if b < 8 then s.status.err.code.getLsbD (b - 4) else if b = 8 then s.status.res
        else if b = 9 then s.status.eq else if b = 10 then s.status.lt else if b = 11 then s.status.sm
        else if b = 12 then s.status.ovr else if b = 13 then s.status.berr else false := by
  have h : s.statusWord.getLsbD b = (0#18 ++ BitVec.ofBool s.status.berr ++ BitVec.ofBool s.status.ovr
      ++ BitVec.ofBool s.status.sm ++ BitVec.ofBool s.status.lt ++ BitVec.ofBool s.status.eq
      ++ BitVec.ofBool s.status.res ++ s.status.err.code ++ 0#2 ++ BitVec.ofBool s.status.done
      ++ BitVec.ofBool s.isBusy).getLsbD b := rfl
  simp only [h, BitVec.getLsbD_append, getLsbD_ofBool, BitVec.getLsbD_zero, Nat.sub_sub]
  by_cases hb : b < 14
  · clear h
    interval_cases b <;> simp
  · have hk : ∀ k, k ≤ 14 → ¬ b < k := by omega
    have hk' : ∀ k, k < 14 → ¬ b = k := by omega
    have h0 : ∀ k, k < 14 → ¬ b - k = 0 := by omega
    simp [hk, hk', h0, show ¬ b - 4 < 4 by omega]

/-! The words of an operand register. -/

theorem toNat_wordAt (v j : Nat) : (wordAt v j).toNat = v / 2 ^ (32 * j) % 2 ^ 32 := by simp [wordAt]

/-- Bit `i` of word `j` is bit `32*j + i` of the register (20_memory.md R54). -/
theorem getLsbD_wordAt (v j i : Nat) (hi : i < 32) : (wordAt v j).getLsbD i = v.testBit (32 * j + i) := by
  rw [wordAt, BitVec.getLsbD_ofNat, Nat.testBit_div_two_pow, Nat.add_comm i]
  simp [hi]

/-- A replaced word changes the bits of that word and no others (20_memory.md R53). -/
theorem testBit_setWordAt (v j : Nat) (w : Word) (b : Nat) :
    (setWordAt v j w).testBit b
      = if b < 32 * j then v.testBit b else if b < 32 * (j + 1) then w.getLsbD (b - 32 * j) else v.testBit b := by
  have hlo : v % 2 ^ (32 * j) < 2 ^ (32 * j) := Nat.mod_lt _ (Nat.two_pow_pos _)
  have hw : w.toNat < 2 ^ 32 := w.isLt
  have heq : setWordAt v j w
      = 2 ^ (32 * j) * (2 ^ 32 * (v / 2 ^ (32 * (j + 1))) + w.toNat) + v % 2 ^ (32 * j) := by
    unfold setWordAt
    rw [show 32 * (j + 1) = 32 * j + 32 by ring, pow_add]
    ring
  rw [heq, Nat.testBit_two_pow_mul_add _ hlo]
  by_cases h1 : b < 32 * j
  · simp [h1]
  · rw [if_neg h1, if_neg h1, Nat.testBit_two_pow_mul_add _ hw]
    by_cases h2 : b < 32 * (j + 1)
    · rw [if_pos (by omega), if_pos h2, BitVec.getLsbD]
    · rw [if_neg (by omega), if_neg h2, Nat.testBit_div_two_pow]
      congr 1
      omega

/-- The word written is the word read back. -/
theorem wordAt_setWordAt_same (v j : Nat) (w : Word) : wordAt (setWordAt v j w) j = w := by
  apply BitVec.eq_of_getLsbD_eq
  intro i hi
  rw [getLsbD_wordAt _ _ _ hi, testBit_setWordAt, if_neg (by omega), if_pos (by omega)]
  congr 1
  omega

/-- Every other word is unchanged. -/
theorem wordAt_setWordAt_other (v j k : Nat) (w : Word) (h : k ≠ j) : wordAt (setWordAt v j w) k = wordAt v k := by
  apply BitVec.eq_of_getLsbD_eq
  intro i hi
  rw [getLsbD_wordAt _ _ _ hi, getLsbD_wordAt _ _ _ hi, testBit_setWordAt]
  split
  · rfl
  · rw [if_neg (by omega)]

/-- A register of `n` words stays one. -/
theorem setWordAt_lt (v j n : Nat) (w : Word) (hj : j < n) (hv : v < 2 ^ (32 * n)) : setWordAt v j w < 2 ^ (32 * n) := by
  apply Nat.lt_pow_two_of_testBit
  intro b hb
  rw [testBit_setWordAt, if_neg (by omega), if_neg (by omega)]
  exact Nat.testBit_lt_two_pow (lt_of_lt_of_le hv (Nat.pow_le_pow_right (by omega) hb))

/-- `off = 0x1000 + k * BYTES + 4 * j` names word `j` of `x[k]` (20_memory.md R51, R54). -/
theorem State.placeOf_operand (s : State) (k : Reg) (j : Nat) (hj : j < s.par.words) :
    s.placeOf (0x1000 + k.val * s.bytes + 4 * j) = .operand k j := by
  have hb : s.bytes = 4 * s.par.words := rfl
  have h4 : 4 * j < s.bytes := by omega
  have hsub : 0x1000 + k.val * s.bytes + 4 * j - 0x1000 = 4 * j + k.val * s.bytes := by omega
  unfold State.placeOf
  rw [if_neg (by omega), hsub, Nat.add_mul_div_right _ _ (by omega), Nat.add_mul_mod_self_right, Nat.div_eq_of_lt h4,
    Nat.mod_eq_of_lt h4]
  simp

theorem State.placeOf_control (s : State) (off : Nat) (h : off < 0x1000) : s.placeOf off = .control off := by
  simp [State.placeOf, h]

/-- The bus address of a window offset is decoded to that offset (20_memory.md R51). -/
theorem State.offsetOf_base_add (s : State) (off : Nat) (h : off < s.span) : s.offsetOf (s.par.base + off) = some off := by
  simp [State.offsetOf, h]

/-- An access that lies wholly outside the window is not decoded (20_memory.md R51). -/
theorem State.offsetOf_outside (s : State) (addr size : Nat) (h : 0 < size)
    (ho : addr + size ≤ s.par.base ∨ s.par.base + s.span ≤ addr) : s.offsetOf addr = none := by
  rw [State.offsetOf, if_neg (by omega)]

/-- Word `j` of every register lies in the window. -/
theorem State.operand_lt_span (s : State) (k : Reg) (j : Nat) (hj : j < s.par.words) :
    0x1000 + k.val * s.bytes + 4 * j < s.span := by
  have hb : s.bytes = 4 * s.par.words := rfl
  have hk : k.val ≤ 15 := by omega
  have := Nat.mul_le_mul_right s.bytes hk
  unfold State.span
  omega

/-- An aligned offset of the window lies in the control page or is a word of an operand register (20_memory.md R51). -/
theorem State.placeOf_cases (s : State) (off : Nat) (h4 : off % 4 = 0) (hspan : off < s.span) :
    (off < 0x1000 ∧ s.placeOf off = .control off)
      ∨ ∃ (k : Reg) (j : Nat), j < s.par.words ∧ off = 0x1000 + k.val * s.bytes + 4 * j ∧ s.placeOf off = .operand k j := by
  by_cases hp : off < 0x1000
  · exact .inl ⟨hp, s.placeOf_control off hp⟩
  · refine .inr ?_
    have hb : s.bytes = 4 * s.par.words := rfl
    simp only [State.span] at hspan
    have hpos : 0 < s.bytes := by omega
    have hk : (off - 0x1000) / s.bytes < 16 := by
      rw [Nat.div_lt_iff_lt_mul hpos]
      omega
    have hm := Nat.mod_lt (off - 0x1000) hpos
    have hd := Nat.div_add_mod (off - 0x1000) s.bytes
    have h4' : (off - 0x1000) % s.bytes % 4 = 0 := by
      rw [hb, Nat.mod_mod_of_dvd _ (Dvd.intro _ rfl)]
      omega
    have hoff : off = 0x1000 + (off - 0x1000) / s.bytes * s.bytes + 4 * ((off - 0x1000) % s.bytes / 4) := by
      rw [Nat.mul_comm _ s.bytes]
      omega
    have hj : (off - 0x1000) % s.bytes / 4 < s.par.words := by omega
    refine ⟨⟨(off - 0x1000) / s.bytes, hk⟩, (off - 0x1000) % s.bytes / 4, hj, hoff, ?_⟩
    have := s.placeOf_operand ⟨(off - 0x1000) / s.bytes, hk⟩ ((off - 0x1000) % s.bytes / 4) hj
    rwa [← hoff] at this

theorem State.offsetOf_lt_span {s : State} {addr off : Nat} (h : s.offsetOf addr = some off) : off < s.span := by
  simp only [State.offsetOf] at h
  split at h <;> simp at h
  omega

/-- Everything a host read can do (20_memory.md R52, R56): it is not decoded, it is a bus error, or it answers with a
register of the control page or with a word of an operand register. -/
theorem State.read_cases (s : State) (addr size : Nat) :
    (s.offsetOf addr = none ∧ s.hostAccess (.read addr size) = s.answer .notDecoded)
      ∨ (∃ off, s.offsetOf addr = some off ∧ (off % 4 ≠ 0 ∨ size ≠ 4)
          ∧ s.hostAccess (.read addr size) = s.setBerr.answer .busError)
      ∨ (∃ off, s.offsetOf addr = some off ∧ off % 4 = 0 ∧ size = 4 ∧ off < 0x1000
          ∧ s.hostAccess (.read addr size) = s.answer (.data (s.controlWord off)))
      ∨ (∃ (k : Reg) (j : Nat), j < s.par.words ∧ s.offsetOf addr = some (0x1000 + k.val * s.bytes + 4 * j) ∧ size = 4
          ∧ s.hostAccess (.read addr size) = s.readOperand k j) := by
  simp only [State.hostAccess]
  cases h : s.offsetOf addr with
  | none => exact .inl ⟨rfl, rfl⟩
  | some off =>
    refine .inr ?_
    simp only [State.memRead]
    split
    · exact .inl ⟨off, rfl, by assumption, rfl⟩
    · rename_i hc
      rw [not_or, not_not, not_not] at hc
      rcases s.placeOf_cases off hc.1 (State.offsetOf_lt_span h) with ⟨hp, hpl⟩ | ⟨k, j, hj, hoff, hpl⟩
      · exact .inr (.inl ⟨off, rfl, hc.1, hc.2, hp, by rw [hpl]⟩)
      · exact .inr (.inr ⟨k, j, hj, by rw [hoff], hc.2, by rw [hpl]⟩)

/-- Everything a host write can do (20_memory.md R53, R56): it is not decoded, it is a bus error, or it writes the control
page or a word of an operand register. -/
theorem State.write_cases (s : State) (addr size : Nat) (v : Word) :
    (s.offsetOf addr = none ∧ s.hostAccess (.write addr size v) = s.answer .notDecoded)
      ∨ (∃ off, s.offsetOf addr = some off ∧ (off % 4 ≠ 0 ∨ size ≠ 4)
          ∧ s.hostAccess (.write addr size v) = s.setBerr.answer .busError)
      ∨ (∃ off, s.offsetOf addr = some off ∧ off % 4 = 0 ∧ size = 4 ∧ off < 0x1000
          ∧ s.hostAccess (.write addr size v) = (s.writeControl off v).answer .written)
      ∨ (∃ (k : Reg) (j : Nat), j < s.par.words ∧ s.offsetOf addr = some (0x1000 + k.val * s.bytes + 4 * j) ∧ size = 4
          ∧ s.hostAccess (.write addr size v) = (s.writeOperand k j v).answer .written) := by
  simp only [State.hostAccess]
  cases h : s.offsetOf addr with
  | none => exact .inl ⟨rfl, rfl⟩
  | some off =>
    refine .inr ?_
    simp only [State.memWrite]
    split
    · exact .inl ⟨off, rfl, by assumption, rfl⟩
    · rename_i hc
      rw [not_or, not_not, not_not] at hc
      rcases s.placeOf_cases off hc.1 (State.offsetOf_lt_span h) with ⟨hp, hpl⟩ | ⟨k, j, hj, hoff, hpl⟩
      · exact .inr (.inl ⟨off, rfl, hc.1, hc.2, hp, by rw [hpl]⟩)
      · exact .inr (.inr ⟨k, j, hj, by rw [hoff], hc.2, by rw [hpl]⟩)

/-- An access of a whole word of the control page (20_memory.md R52). -/
theorem State.hostAccess_read_control (s : State) (off : Nat) (h : off < 0x1000) (h4 : off % 4 = 0) :
    s.hostAccess (.read (s.par.base + off) 4) = s.answer (.data (s.controlWord off)) := by
  have hs : off < s.span := by unfold State.span; omega
  simp [State.hostAccess, s.offsetOf_base_add off hs, State.memRead, h4, s.placeOf_control off h]

/-- See `State.hostAccess_read_control` (20_memory.md R53). -/
theorem State.hostAccess_write_control (s : State) (off : Nat) (v : Word) (h : off < 0x1000) (h4 : off % 4 = 0) :
    s.hostAccess (.write (s.par.base + off) 4 v) = (s.writeControl off v).answer .written := by
  have hs : off < s.span := by unfold State.span; omega
  simp [State.hostAccess, s.offsetOf_base_add off hs, State.memWrite, h4, s.placeOf_control off h]

theorem State.operand_aligned (s : State) (k : Reg) (j : Nat) : (0x1000 + k.val * s.bytes + 4 * j) % 4 = 0 := by
  have hb : k.val * s.bytes = 4 * (k.val * s.par.words) := by
    show k.val * (4 * s.par.words) = _
    ring
  omega

/-- An access of a word of an operand register (20_memory.md R52, R54). -/
theorem State.hostAccess_read_operand (s : State) (k : Reg) (j : Nat) (h : j < s.par.words) :
    s.hostAccess (.read (s.par.base + (0x1000 + k.val * s.bytes + 4 * j)) 4) = s.readOperand k j := by
  simp [State.hostAccess, s.offsetOf_base_add _ (s.operand_lt_span k j h), State.memRead, s.operand_aligned k j,
    s.placeOf_operand k j h]

/-- See `State.hostAccess_read_operand` (20_memory.md R53, R54). -/
theorem State.hostAccess_write_operand (s : State) (k : Reg) (j : Nat) (v : Word) (h : j < s.par.words) :
    s.hostAccess (.write (s.par.base + (0x1000 + k.val * s.bytes + 4 * j)) 4 v)
      = (s.writeOperand k j v).answer .written := by
  simp [State.hostAccess, s.offsetOf_base_add _ (s.operand_lt_span k j h), State.memWrite, s.operand_aligned k j,
    s.placeOf_operand k j h]

end Sys2Proof.Machine
end

