-- ==== Sys2Proof/Tests/Slice0.lean ====
section
/-! SUPPORT. Tests of the model. Expected values are the spec's own: the encodings of 30_encoding.md and the vectors of
95_test_vectors.md. Then one witness for the hypotheses of each clause of each statement of
Certificates/Slice0/Obligations.lean. -/

namespace Sys2Proof.Tests

-- One theorem after another: as tasks of their own these many small ones open more threads than a sandbox allows.
set_option Elab.async false

open Sys2Proof.Machine

/-! Helpers: small states, one step, and a scripted generator. -/

/-- The reset state with `x[1]`, `x[2]`, `x[4]` and ARG set, `x[3] = 99`, and the generator Seeded. -/
def regs (x1 x2 x4 : Nat) (arg : Word := 0#32) : State :=
  { ((((State.reset.writeReg 1 x1).writeReg 2 x2).writeReg 3 99).writeReg 4 x4).setRng (.seeded ⟨0⟩) with arg := arg }

/-- The state after one step that runs the word. -/
def after (s : State) (cw : Nat) : Option State :=
  match step (s.withFetchWord 32 cw) with
  | .next t => some t
  | .fault _ => none
  | .refused _ => none

/-- What a step leaves in `x[3]` and in ERR. -/
def result (s : State) (cw : Nat) : Option (Nat × ErrCode) := (after s cw).map fun t => (t.readReg 3, t.status.err)

/-- A generator that returns the numbers of a list, one for each draw. -/
def script (draws : List Nat) : Config.Generator where
  seed v := ⟨v⟩
  drawB σ _ := (draws.getD σ.code 0, ⟨σ.code + 1⟩)
  drawM σ _ := (draws.getD σ.code 0, ⟨σ.code + 1⟩)

/-- The word accepted, and the command advanced to `p`. -/
def atProgress (s : State) (cw : Word) (p : Progress) : State := (s.accept cw).setProgress (s.latch cw) p

/-- What the controller holds in that state. -/
def run (s : State) (cw : Word) (p : Progress := .start) : Running := { s.latch cw with progress := p }

/-- What an outcome's next state shows. -/
def shows {α : Type} (o : Outcome) (f : State → α) : Option α :=
  match o with
  | .next t => some (f t)
  | .fault _ => none
  | .refused _ => none

/-! Decoding: words written out field by field, `op rd rs1 rs2 rs3 rsv` (30_encoding.md R71, R75, ENC-1 to ENC-7). -/

theorem test_decode_bigint :
    decode 0b000000_0000_0000_0000_0000_0000000000#32 = .ok .nop
    ∧ decode 0b000001_0001_0000_0000_0000_0000000000#32 = .ok (.ldi 1)
    ∧ decode 0b000010_0010_0001_0000_0000_0000000000#32 = .ok (.mov 2 1)
    ∧ decode 0b000011_0011_0001_0010_0000_0000000000#32 = .ok (.add 3 1 2)
    ∧ decode 0b000100_0011_0001_0010_0000_0000000000#32 = .ok (.sub 3 1 2)
    ∧ decode 0b000101_0011_0001_0010_0000_0000000000#32 = .ok (.mul 3 1 2) := by decide

theorem test_decode_bigint_more :
    decode 0b000110_0011_0001_0010_0100_0000000000#32 = .ok (.divmod 3 1 2 4)
    ∧ decode 0b000111_0000_0001_0010_0000_0000000000#32 = .ok (.cmp 1 2)
    ∧ decode 0b001000_0011_0001_0000_0000_0000000000#32 = .ok (.bitlen 3 1)
    ∧ decode 0b001001_0011_0001_0010_0100_0000000000#32 = .ok (.modmul 3 1 2 4) := by decide

theorem test_decode_random :
    decode 0b001010_0000_0001_0000_0000_0000000000#32 = .ok (.seed 1)
    ∧ decode 0b001011_0000_0000_0000_0000_0000000000#32 = .ok .rngclr
    ∧ decode 0b001100_0011_0000_0000_0000_0000000000#32 = .ok (.randb 3)
    ∧ decode 0b001101_0011_0001_0000_0000_0000000000#32 = .ok (.randm 3 1) := by decide

theorem test_decode_gcd_powmod :
    decode 0b001110_0011_0001_0010_0000_0000000000#32 = .ok (.gcd 3 1 2)
    ∧ decode 0b001111_0011_0001_0010_0000_0000000000#32 = .ok (.modinv 3 1 2)
    ∧ decode 0b010000_0011_0001_0010_0100_0000000000#32 = .ok (.powmod 3 1 2 4) := by decide

theorem test_decode_primes :
    decode 0b010001_0011_0001_0000_0000_0000000000#32 = .ok (.isprime 3 1)
    ∧ decode 0b010010_0011_0000_0000_0000_0000000000#32 = .ok (.makeprime 3) := by decide

theorem test_decode_cipher :
    decode 0b010011_0011_0001_0000_0000_0000000000#32 = .ok (.blksz 3 1)
    ∧ decode 0b010100_0011_0001_0010_0000_0000000000#32 = .ok (.encrypt 3 1 2)
    ∧ decode 0b010101_0011_0001_0010_0100_0000000000#32 = .ok (.decrypt 3 1 2 4) := by decide

theorem test_decode_ignores_unused_bits :
    decode 0b000011_0011_0001_0010_1111_1111111111#32 = .ok (.add 3 1 2)
    ∧ decode 0b000000_1111_1111_1111_1111_1111111111#32 = .ok .nop
    ∧ decode 0b000111_1111_0001_0010_1111_0000000001#32 = .ok (.cmp 1 2) := by decide

theorem test_decode_reserved :
    decode 0b010110_0000_0000_0000_0000_0000000000#32 = .error (.reservedOpcode 0x16#6)
    ∧ decode 0b111111_0000_0000_0000_0000_0000000000#32 = .error (.reservedOpcode 0x3F#6) := by decide

/-! Well-formedness: one ill-formed term for each check (00_scope.md R7, 30_encoding.md R74, R78). -/

theorem test_wf_params :
    Config.Params.wf ⟨2, 0⟩ = true ∧ Config.Params.wf ⟨1024, 0x1004⟩ = true ∧ Config.Params.wf ⟨1, 0⟩ = false
    ∧ Config.Params.wf ⟨1025, 0⟩ = false ∧ Config.Params.wf ⟨2, 2⟩ = false := by decide

theorem test_wf_line_bounds :
    AsmLine.wf ⟨.ldi 1, [0xFFFFFFFF]⟩ = true ∧ AsmLine.wf ⟨.ldi 1, [0x100000000]⟩ = false
    ∧ AsmLine.wf ⟨.randb 1, [0x100000000]⟩ = false ∧ AsmLine.wf ⟨.isprime 1 2, [0x100000000]⟩ = false
    ∧ AsmLine.wf ⟨.encrypt 1 2 3, [0x100000000]⟩ = false ∧ AsmLine.wf ⟨.makeprime 1, [65536, 50]⟩ = false
    ∧ AsmLine.wf ⟨.makeprime 1, [3, 65536]⟩ = false ∧ AsmLine.wf ⟨.makeprime 1, [65535, 65535]⟩ = true := by decide

theorem test_wf_line_counts :
    AsmLine.wf ⟨.nop, []⟩ = true ∧ AsmLine.wf ⟨.nop, [0]⟩ = false ∧ AsmLine.wf ⟨.ldi 1, []⟩ = false
    ∧ AsmLine.wf ⟨.makeprime 1, [3]⟩ = false ∧ AsmLine.wf ⟨.add 3 1 2, [0, 0]⟩ = false := by decide

/-! One step of each command (40_bigint.md to 46_cipher.md, 95_test_vectors.md, W = 64). -/

theorem test_nop : (after (regs 1 2 4) 0x00000000).map (fun t => (t.x, t.status.done, t.status.err, t.isBusy))
    = some ((regs 1 2 4).x, true, .ok, false) := by decide +kernel

theorem test_ldi : (after (regs 0 0 0 0x107#32) 0x04400000).map (·.readReg 1) = some 263 := by decide +kernel

theorem test_mov : (after (regs 263 0 0) 0x08840000).map (·.readReg 2) = some 263 := by decide +kernel

theorem test_add : result (regs 262 316 0) 0x0CC48000 = some (578, .ok)
    ∧ result (regs (2 ^ 64 - 1) 1 0) 0x0CC48000 = some (99, .overflow) := by decide +kernel

theorem test_sub : result (regs 263 1 0) 0x10C48000 = some (262, .ok)
    ∧ result (regs 0 1 0) 0x10C48000 = some (99, .underflow) := by decide +kernel

theorem test_mul : result (regs (2 ^ 32) (2 ^ 32 - 1) 0) 0x14C48000 = some (2 ^ 64 - 2 ^ 32, .ok)
    ∧ result (regs (2 ^ 32) (2 ^ 32) 0) 0x14C48000 = some (99, .overflow) := by decide +kernel

theorem test_divmod : (after (regs 82792 2 7) 0x18C49000).map (fun t => (t.readReg 3, t.readReg 4)) = some (41396, 0)
    ∧ result (regs 17 5 0) 0x18C48C00 = some (2, .ok) := by decide +kernel

theorem test_divmod_by_zero : result (regs 17 0 0) 0x18C49000 = some (99, .divZero) := by decide +kernel

theorem test_cmp : (after (regs 5 7 0) 0x1C048000).map (fun t => (t.status.eq, t.status.lt)) = some (false, true)
    ∧ (after (regs 5 5 0) 0x1C048000).map (fun t => (t.status.eq, t.status.lt)) = some (true, false) := by decide +kernel

theorem test_bitlen : result (regs 21926573 0 0) 0x20C40000 = some (25, .ok)
    ∧ result (regs (2 ^ 64 - 1) 0 0) 0x20C40000 = some (64, .ok) := by decide +kernel

theorem test_modmul : result (regs 263 263 1000) 0x24C49000 = some (169, .ok)
    ∧ result (regs 1 1 0) 0x24C49000 = some (99, .divZero) := by decide +kernel

theorem test_seed : shows (seedStep (script []) 1 (atProgress (regs 2026 0 0) 0x28040000#32 .start)) (fun t => (t.rng, t.rngstatWord))
    = some (.seeded ⟨2026⟩, 1#32) := by decide +kernel

theorem test_rngclr : (after (regs 0 0 0) 0x2C000000).map (fun t => (t.rng, t.rngstatWord)) = some (.unseeded, 0#32) := by
  decide +kernel

theorem test_randb : shows (randbStep (script [0xAB]) 3 (atProgress (regs 0 0 0 8#32) 0x30C00000#32 .start))
      (fun t => (t.readReg 3, t.rng)) = some (0xAB, .seeded ⟨1⟩)
    ∧ result (regs 0 0 0 65#32) 0x30C00000 = some (99, .badArg) := by decide +kernel

theorem test_randm : shows (randmStep (script [20]) 3 1 (atProgress (regs 21 0 0) 0x34C40000#32 .start))
      (fun t => (t.readReg 3, t.rng)) = some (20, .seeded ⟨1⟩)
    ∧ result ((regs 0 0 0).setRng .unseeded) 0x34C40000 = some (99, .noSeed) := by decide +kernel

theorem test_gcd : result (regs 262 316 0) 0x38C48000 = some (2, .ok)
    ∧ result (regs 0 7 0) 0x38C48000 = some (7, .ok) := by decide +kernel

theorem test_modinv : result (regs 21926573 41396 0) 0x3CC48000 = some (14229, .ok)
    ∧ result (regs 6 9 0) 0x3CC48000 = some (99, .noInv) := by decide +kernel

theorem test_modinv_of_one : result (regs 5 1 0) 0x3CC48000 = some (0, .ok) := by decide +kernel

theorem test_powmod : result (regs 4 13 497) 0x40C49000 = some (445, .ok)
    ∧ result (regs 0 0 5) 0x40C49000 = some (1, .ok) ∧ result (regs 7 0 1) 0x40C49000 = some (0, .ok) := by decide +kernel

theorem test_mr_round : mrRound 561 4 35 2 = .composite ∧ mrRound 561 4 35 50 = .inconclusive
    ∧ mrRound 2047 1 1023 2 = .inconclusive ∧ mrRound 28 0 27 3 = .inconclusive := by decide +kernel

theorem test_isprime : shows (isprimeStep (script [0]) 3 1 (atProgress (regs 561 0 0 1#32) 0x44C40000#32 (.primeLoop 4 35 0)))
      (fun t => (t.readReg 3, t.status.res, t.rndcnt, t.isBusy)) = some (0, false, 1#32, false)
    ∧ result (regs 2 0 0) 0x44C40000 = some (1, .ok) := by decide +kernel

theorem test_isprime_goes_on : (after (regs 561 0 0 1#32) 0x44C40000).map (·.ctl)
    = some (.busy (run (regs 561 0 0 1#32) 0x44C40000#32 (.primeLoop 4 35 0))) := by decide +kernel

theorem test_makeprime : shows (makeprimeStep (script [6]) 3 (atProgress (regs 0 0 0 0x00320003#32) 0x48C00000#32 (.candidate 0)))
      (fun t => (t.ctl, t.trycnt)) = some (.busy (run (regs 0 0 0 0x00320003#32) 0x48C00000#32
        (.candidateRound 1 7 1 3 0)), 1#32)
    ∧ result (regs 0 0 0 0x00320001#32) 0x48C00000 = some (99, .badArg) := by decide +kernel

theorem test_makeprime_commits : shows (makeprimeStep (script [0]) 3
      (atProgress (regs 0 0 0 0x00010003#32) 0x48C00000#32 (.candidateRound 1 7 1 3 0))) (fun t => (t.readReg 3, t.rndcnt))
    = some (7, 1#32) := by decide +kernel

theorem test_blksz : result (regs 83371 0 0) 0x4CC40000 = some (2, .ok)
    ∧ result (regs 0 0 0) 0x4CC40000 = some (99, .badArg) := by decide +kernel

theorem test_encrypt : result (regs 0x41 21926573 0 1#32) 0x50C48000 = some (4225869, .ok)
    ∧ result (regs 0x100 21926573 0 1#32) 0x50C48000 = some (99, .badArg) := by decide +kernel

theorem test_decrypt : (after (regs 4225869 14229 83371) 0x54C49000).map
      (fun t => (t.readReg 3, t.reslen, t.status.sm, t.status.err)) = some (0x41, 1#32, false, .ok)
    ∧ result (regs 0 1 5) 0x54C49000 = some (99, .domain) := by decide +kernel

theorem test_illegal : (after (regs 1 2 4) 0x58000000).map (fun t => (t.x, t.status.err, t.cmd))
    = some ((regs 1 2 4).x, .illegal, 0x58000000#32) := by decide +kernel

/-! The window and the lifecycle (20_memory.md, 60_exceptions.md). -/

theorem test_status_word : ((State.reset.hostReadAt 0x000).env.resp, (State.reset.hostReadAt 0x004).env.resp,
      (State.reset.hostReadAt 0x008).env.resp, ((regs 0 1 0).raise .underflow).statusWord)
    = (.data 0x4E544131#32, .data 0x01100002#32, .data 0x0000FF00#32, 0x00000032#32) := by decide +kernel

/-- 10_state.md R29: DONE is bit 1, ERR (ABORTED, 10) bits 7:4, RES bit 8, LT bit 10, BERR bit 13. -/
theorem test_status_bits :
    ({ State.reset with status := ⟨true, .aborted, true, false, true, false, false, true⟩ } : State).statusWord
      = 0x000025A2#32
    ∧ ({ regs 0 0 0 with status := ⟨false, .ok, false, true, false, true, true, false⟩ } : State).statusWord
      = 0x00001A00#32 := by decide +kernel

theorem test_operand_words : ((State.reset.hostWriteAt 0x100C 0x12345678#32).readReg 1,
      ((State.reset.hostWriteAt 0x100C 0x12345678#32).hostReadAt 0x1008).env.resp)
    = (0x1234567800000000, .data 0#32) := by decide +kernel

theorem test_bus_error : ((State.reset.hostAccess (.read 0x00D 4)).status.berr, (State.reset.hostAccess (.write 0x010 2 7#32)).arg,
      (State.reset.hostAccess (.read 0x1080 4)).env.resp) = (true, 0#32, .notDecoded) := by decide +kernel

theorem test_abort_wins : shows (microStep (((regs 1 2 0).accept 0x0CC48000#32).requestAbort))
    (fun t => (t.readReg 3, t.status.err)) = some (99, .aborted) := by decide +kernel

theorem test_overrun : ((((regs 1 2 0).accept 0x0CC48000#32).hostWriteAt 0x014 0#32).status.ovr,
      (((regs 1 2 0).accept 0x0CC48000#32).hostWriteAt 0x014 0#32).cmd) = (true, 0x0CC48000#32) := by decide +kernel

/-- ERR-11 of 95_test_vectors.md (DONE and ERR are 0 at acceptance, IRQ drops); RESLEN and the flags stay
(70_reset_and_hazards.md R242). -/
theorem test_acceptance_clears_done_and_err :
    (fun s : State => (s.irq, (s.accept 0#32).irq, (s.accept 0#32).status, (s.accept 0#32).reslen))
      { regs 0 0 0 with
          ctrl := { Ctrl.reset with ie := true }, reslen := 3#32
          status := ⟨true, .divZero, true, true, true, true, true, true⟩ }
    = (true, false, ⟨false, .ok, true, true, true, true, true, true⟩, 3#32) := by decide +kernel

theorem test_lane_bytes : (laneByte 0x12345678#32 0, laneByte 0x12345678#32 3) = (0x78#8, 0x12#8) := by decide

theorem test_asm_line : asmEvents ⟨2, 0x1000⟩ ⟨.makeprime 3, [3, 50]⟩
    = [.access (.write 0x1010 4 0x00320003#32), .access (.write 0x1014 4 0x48C00000#32)] := by decide

/-! Witnesses: for each statement with hypotheses, a state and operands that meet them, for each clause. `a` runs a word that
has been accepted, with its progress. -/

/-- A witness about a running command: a state, what its controller holds, and the rest. -/
def Runs (s : State) (cw : Word) (p : Progress) (P : State → Running → Prop) : Prop :=
  (atProgress s cw p).ctl = .busy (run s cw p) ∧ P (atProgress s cw p) (run s cw p)

theorem reset_inv : State.reset.Inv :=
  ⟨by decide, by unfold State.RegsFit; decide +kernel, fun _ h => nomatch h⟩

/-- Every state just after the acceptance of a command in a state like `regs` meets the invariant. -/
theorem accepted_inv : ((regs 5 1 0).accept 0x0CC48000#32).Inv := by
  refine ⟨by decide, by unfold State.RegsFit; decide +kernel, ?_⟩
  rintro r ⟨⟩
  exact ⟨rfl, rfl, rfl, by decide +kernel, by decide +kernel, by decide +kernel⟩

theorem witness_StepRunsTheDecodedCommand :
    (∃ (s : State) (es : List Event), s.env.events = .micro :: es ∧ Runs s 0x0CC48000#32 .start fun u r =>
      u.env.events = .micro :: es ∧ r.abortReq = false ∧ decode r.cw = .ok (.add 3 1 2))
    ∧ Runs (regs 1 2 0) 0x0CC48000#32 .start fun u r =>
      u.env.events = [] ∧ r.abortReq = false ∧ decode r.cw = .ok (.add 3 1 2) :=
  ⟨⟨(regs 1 2 0).withEvents [.micro], [], rfl, rfl, rfl, rfl, by decide⟩, rfl, rfl, rfl, by decide⟩

theorem witness_StepTakesOneAccessAndIdleWaits :
    (State.reset.withEvents [.access (.read 0 4)]).env.events = [.access (.read 0 4)]
    ∧ (State.reset.ctl = .idle ∧ State.reset.env.events = [])
    ∧ (State.reset.withEvents [.micro]).ctl = .idle ∧ (State.reset.withEvents [.micro]).env.events = [.micro] := by
  decide +kernel

theorem witness_EveryStepKeepsTheInvariant :
    (State.reset.Inv ∧ step State.reset = .next State.reset)
    ∧ ∃ t, ((regs 5 1 0).accept 0x0CC48000#32).Inv ∧ step ((regs 5 1 0).accept 0x0CC48000#32) = .next t :=
  ⟨⟨reset_inv, rfl⟩, _, accepted_inv, rfl⟩

theorem witness_ResetMeetsTheInvariant : Config.Params.wf ⟨1024, 0x1000⟩ = true ∧ Config.defaultParams.wf = true := by
  decide

theorem witness_EveryResetLeavesTheResetValues :
    ((regs 1 2 4).par.wf = true ∧ ((regs 1 2 4).withEvents [.powerOn]).env.events = [.powerOn])
    ∧ (4#32).getLsbD 2 = true := by decide

theorem witness_CmdWriteWhileIdleAcceptsTheCommand :
    State.reset.ctl = .idle ∧ decode 0x0CC48000#32 = .ok (.add 3 1 2) ∧ 0x16 ≤ (opField 0x58000000#32).toNat := by
  decide

theorem witness_AbortWinsAtTheNextMicroStep :
    (Runs (regs 1 2 0) 0x0CC48000#32 .start fun _ _ => (2#32).getLsbD 1 = true ∧ (2#32).getLsbD 2 = false)
    ∧ State.reset.ctl = .idle
    ∧ ∃ (s : State) (r : Running), s.ctl = .busy r ∧ r.abortReq = true :=
  ⟨⟨rfl, by decide⟩, rfl, ((regs 1 2 0).accept 0#32).requestAbort, _, rfl, rfl⟩

theorem witness_RaiseWritesNoResult :
    (∃ t, (Runs (regs 0 1 0) 0x10C48000#32 .start fun s _ => microStep s = .next t) ∧ t.ctl = .idle ∧ t.status.err ≠ .ok)
    ∧ ∃ t, (Runs (regs 5 0 0 1#32) 0x44C40000#32 .start fun s _ => microStep s = .next t) ∧ t.ctl ≠ .idle :=
  ⟨⟨_, ⟨rfl, rfl⟩, rfl, by decide +kernel⟩, _, ⟨rfl, rfl⟩, by decide +kernel⟩

theorem witness_OtherCommandsTakeOneMicroStep : Runs (regs 0 0 0) 0#32 .start fun _ _ =>
    (∀ rd rs1, Instr.nop ≠ .isprime rd rs1) ∧ ∀ rd, Instr.nop ≠ .makeprime rd :=
  ⟨rfl, by simp, by simp⟩

theorem witness_ReservedOpcodeEndsWithIllegal : State.reset.ctl = .idle ∧ 0x16 ≤ (opField 0x58000000#32).toNat
    ∧ 0x16 ≤ (opField 0xFFFFFFFF#32).toNat ∧ (opField 0x57FFFFFF#32).toNat < 0x16 := by decide

theorem witness_CommandsLeaveTheHostSideAlone : ∃ t, exec .nop ((regs 1 2 0).accept 0#32) = .next t := ⟨_, rfl⟩

theorem witness_OnlyRandomCommandsChangeTheGenerator :
    ∃ t, exec .rngclr ((regs 1 2 0).accept 0x2C000000#32) = .next t ∧ t.rng ≠ ((regs 1 2 0).accept 0x2C000000#32).rng :=
  ⟨_, rfl, by decide +kernel⟩

theorem witness_EachFlagHasOneProducer :
    (∃ s t : State, exec (.isprime 3 1) s = .next t ∧ t.status.res ≠ s.status.res)
    ∧ (∃ s t : State, exec (.cmp 1 2) s = .next t ∧ t.status.eq ≠ s.status.eq)
    ∧ (∃ s t : State, exec (.cmp 1 2) s = .next t ∧ t.status.lt ≠ s.status.lt)
    ∧ (∃ s t : State, exec (.decrypt 3 1 2 4) s = .next t ∧ t.status.sm ≠ s.status.sm)
    ∧ ∃ s t : State, exec (.decrypt 3 1 2 4) s = .next t ∧ t.reslen ≠ s.reslen :=
  ⟨⟨(regs 2 0 0).accept 0x44C40000#32, _, rfl, by decide +kernel⟩,
    ⟨(regs 5 5 0).accept 0x1C048000#32, _, rfl, by decide +kernel⟩,
    ⟨(regs 5 7 0).accept 0x1C048000#32, _, rfl, by decide +kernel⟩,
    ⟨(regs 3 1 5).accept 0x54C49000#32, _, rfl, by decide +kernel⟩,
    ⟨(regs 300 1 500).accept 0x54C49000#32, _, rfl, by decide +kernel⟩⟩

theorem witness_IrqFollowsCompletionAndEnable :
    (∃ t, (Runs (regs 0 0 0) 0#32 .start fun s _ => microStep s = .next t) ∧ t.ctl = .idle) ∧ State.reset.ctl = .idle
    ∧ (2#32).getLsbD 1 = true ∧ (1#32).getLsbD 2 = false :=
  ⟨⟨_, ⟨rfl, rfl⟩, rfl⟩, rfl, by decide, by decide⟩

theorem witness_HostReadsAnswerWhatTheWindowHolds :
    (0x107F < State.reset.span ∧ 0x107F % 4 ≠ 0 ∧ 0x107C < State.reset.span ∧ (2 : Nat) ≠ 4)
    ∧ (0x02C % 4 = 0 ∧ 0xFFC % 4 = 0 ∧ 0x02C ≤ 0xFFC ∧ 0xFFC < 0x1000)
    ∧ (1 < State.reset.width / 32 ∧ State.reset.isBusy = false)
    ∧ (1 < ((regs 0 0 0).accept 0#32).width / 32 ∧ ((regs 0 0 0).accept 0#32).isBusy = true)
    ∧ 0x107C < State.reset.span ∧ 0x107C % 4 = 0 ∧ State.reset.par.wf = true := by decide

theorem witness_OperandWriteReplacesOneWord :
    State.reset.ctl = .idle ∧ 1 < State.reset.width / 32 ∧ State.reset.readReg 15 < 2 ^ State.reset.width
    ∧ (0 : Nat) ≠ 1 := by decide +kernel

theorem witness_WrregLoadsAWholeRegister :
    ∃ s : State, s.ctl = .idle ∧ s.RegsFit ∧ 2 ^ 64 - 1 < 2 ^ s.width ∧ s.env.events = wrreg s.par 15 (2 ^ 64 - 1) :=
  ⟨(regs 1 2 4).withEvents (wrreg (regs 1 2 4).par 15 (2 ^ 64 - 1)), rfl, by unfold State.RegsFit; decide +kernel,
    by decide +kernel, rfl⟩

theorem witness_AsmLineStartsItsCommand :
    ∀ l ∈ [(⟨.add 3 1 2, []⟩ : AsmLine), ⟨.ldi 1, [0xFFFFFFFF]⟩, ⟨.makeprime 3, [65535, 65535]⟩],
      l.wf = true ∧ ∃ s : State, s.ctl = .idle ∧ s.env.events = asmEvents s.par l := by
  intro l hl
  refine ⟨?_, State.reset.withEvents (asmEvents State.reset.par l), rfl, rfl⟩
  revert l
  decide

theorem witness_OverrunIsLostAndSticky :
    ((regs 0 0 0).accept 0#32).isBusy = true ∧ 1 < ((regs 0 0 0).accept 0#32).width / 32
    ∧ ∃ t, State.reset.setOvr.status.ovr = true ∧ step State.reset.setOvr = .next t :=
  ⟨rfl, by decide, _, rfl, rfl⟩

theorem witness_BusErrorOnlySetsBerr :
    (0x107F < State.reset.span ∧ 0x107F % 4 ≠ 0 ∧ 0 < State.reset.span ∧ (8 : Nat) ≠ 4)
    ∧ (let s := State.resetOn ⟨2, 0x4000⟩ Env.initial
      s.ctl = .idle ∧ 0x3FFC + 4 ≤ s.par.base ∧ s.par.base + s.span ≤ 0x5080) := by decide

theorem witness_OtherControlWritesStoreOrAreIgnored :
    ∀ off ∈ [0x000, 0x004, 0x018, 0x020, 0x024, 0x028, 0x02C, 0xFFC],
      off % 4 = 0 ∧ off < 0x1000 ∧ off ∉ [0x008, 0x00C, 0x010, 0x014, 0x01C] := by decide

theorem witness_CtrlWriteReadsBack :
    (0xFFFFFFFB#32).getLsbD 2 = false ∧ Runs (regs 0 0 0) 0#32 .start fun _ _ => True :=
  ⟨by decide, rfl, trivial⟩

theorem witness_RunningCommandIsShieldedFromTheHost : Runs (regs 0 0 0) 0#32 .start fun s _ =>
    (∀ v : Word, Access.write (s.par.base + 0x008) 4 1#32 = .write (s.par.base + 0x008) 4 v →
      v.getLsbD 1 = false ∧ v.getLsbD 2 = false)
    ∧ ∀ v : Word, Access.read 0x1000 4 ≠ .write (s.par.base + 0x008) 4 v := by
  refine ⟨rfl, ?_, fun v h => nomatch h⟩
  rintro v ⟨⟩
  decide

/-! The commands of one micro-step. -/

theorem witness_Nop_LdiMov_Cmp_Bitlen_Seed_Gcd :
    (Runs (regs 0 0 0) 0x00000000#32 .start fun _ _ => True) ∧ (Runs (regs 0 0 0) 0x04C00000#32 .start fun _ _ => True)
    ∧ (Runs (regs 5 7 0) 0x1C048000#32 .start fun _ _ => True) ∧ (Runs (regs 0 0 0) 0x20C40000#32 .start fun _ _ => True)
    ∧ (Runs (regs 0 0 0) 0x28040000#32 .start fun _ _ => True)
    ∧ (Runs (regs 6 4 0) 0x38C48000#32 .start fun _ r => 2 ∣ r.src 1 ∧ 2 ∣ r.src 2) :=
  ⟨⟨rfl, trivial⟩, ⟨rfl, trivial⟩, ⟨rfl, trivial⟩, ⟨rfl, trivial⟩, ⟨rfl, trivial⟩, rfl, by decide⟩

theorem witness_AddIsExact :
    (Runs (regs (2 ^ 64 - 1) 0 0) 0x0CC48000#32 .start fun s r => r.src 1 + r.src 2 < 2 ^ s.width)
    ∧ Runs (regs (2 ^ 64 - 1) 1 0) 0x0CC48000#32 .start fun s r => 2 ^ s.width ≤ r.src 1 + r.src 2 :=
  ⟨⟨rfl, by decide +kernel⟩, rfl, by decide +kernel⟩

theorem witness_SubIsExact :
    (Runs (regs 5 5 0) 0x10C48000#32 .start fun _ r => r.src 1 = r.src 2 + 0)
    ∧ Runs (regs 5 6 0) 0x10C48000#32 .start fun _ r => r.src 1 < r.src 2 :=
  ⟨⟨rfl, by decide⟩, rfl, by decide⟩

theorem witness_MulIsExact :
    (Runs (regs (2 ^ 32) (2 ^ 32 - 1) 0) 0x14C48000#32 .start fun s r => r.src 1 * r.src 2 < 2 ^ s.width)
    ∧ Runs (regs (2 ^ 32) (2 ^ 32) 0) 0x14C48000#32 .start fun s r => 2 ^ s.width ≤ r.src 1 * r.src 2 :=
  ⟨⟨rfl, by decide +kernel⟩, rfl, by decide +kernel⟩

theorem witness_DivmodDividesWithRemainder :
    (Runs (regs 17 0 0) 0x18C49000#32 .start fun _ r => r.src 2 = 0)
    ∧ Runs (regs 17 1 0) 0x18C49000#32 .start fun _ r => 0 < r.src 2 ∧ (3 : Reg) ≠ 4 :=
  ⟨⟨rfl, by decide⟩, rfl, by decide⟩

theorem witness_ModmulReducesTheExactProduct :
    (Runs (regs 7 8 0) 0x24C49000#32 .start fun _ r => r.src 4 = 0)
    ∧ Runs (regs 7 8 1) 0x24C49000#32 .start fun _ r => 0 < r.src 4 :=
  ⟨⟨rfl, by decide⟩, rfl, by decide⟩

theorem witness_RandbDrawsBelowTheWidth :
    (Runs ((regs 0 0 0).setRng .unseeded) 0x30C00000#32 .start fun s _ => s.rng = .unseeded)
    ∧ (Runs (regs 0 0 0 65#32) 0x30C00000#32 .start fun s r => s.rng = .seeded ⟨0⟩ ∧ s.width < r.arg.toNat)
    ∧ Runs (regs 0 0 0 64#32) 0x30C00000#32 .start fun s r => s.rng = .seeded ⟨0⟩ ∧ r.arg.toNat ≤ s.width :=
  ⟨⟨rfl, rfl⟩, ⟨rfl, rfl, by decide⟩, rfl, rfl, by decide⟩

theorem witness_RandmDrawsBelowTheBound :
    (Runs ((regs 1 0 0).setRng .unseeded) 0x34C40000#32 .start fun s _ => s.rng = .unseeded)
    ∧ (Runs (regs 0 0 0) 0x34C40000#32 .start fun s r => s.rng = .seeded ⟨0⟩ ∧ r.src 1 = 0)
    ∧ Runs (regs 1 0 0) 0x34C40000#32 .start fun s r => s.rng = .seeded ⟨0⟩ ∧ 0 < r.src 1 :=
  ⟨⟨rfl, rfl⟩, ⟨rfl, rfl, by decide⟩, rfl, rfl, by decide⟩

theorem witness_ModinvIsTheInverseOrNoinv :
    (Runs (regs 5 0 0) 0x3CC48000#32 .start fun _ r => r.src 2 = 0)
    ∧ (Runs (regs 6 9 0) 0x3CC48000#32 .start fun _ r => 0 < r.src 2 ∧ Nat.gcd (r.src 1) (r.src 2) ≠ 1)
    ∧ (Runs (regs 5 1 0) 0x3CC48000#32 .start fun _ r => 0 < r.src 2 ∧ Nat.gcd (r.src 1) (r.src 2) = 1)
    ∧ Runs (regs 3 7 0) 0x3CC48000#32 .start fun _ r => 0 < r.src 2 ∧ Nat.gcd (r.src 1) (r.src 2) = 1
      ∧ 5 < r.src 2 ∧ r.src 1 * 5 % r.src 2 = 1 % r.src 2 :=
  ⟨⟨rfl, by decide⟩, ⟨rfl, by decide +kernel⟩, ⟨rfl, by decide +kernel⟩, rfl, by decide +kernel⟩

theorem witness_PowmodIsThePowerReduced :
    (Runs (regs 4 13 0) 0x40C49000#32 .start fun _ r => r.src 4 = 0)
    ∧ Runs (regs 4 13 1) 0x40C49000#32 .start fun _ r => 0 < r.src 4 :=
  ⟨⟨rfl, by decide⟩, rfl, by decide⟩

theorem witness_BlkszIsTheBlockSize :
    (Runs (regs 0 0 0) 0x4CC40000#32 .start fun _ r => r.src 1 = 0)
    ∧ Runs (regs 1 0 0) 0x4CC40000#32 .start fun _ r => 0 < r.src 1 :=
  ⟨⟨rfl, by decide⟩, rfl, by decide⟩

/-- The block integer of the running ENCRYPT (46_cipher.md R182). -/
def block (r : Running) : Nat := r.sentinel.toNat * 2 ^ (8 * r.arg.toNat) + r.src 1

/-- A state with the sentinel changed. -/
def withSentinel (s : State) (b : Byte) : State := { s with ctrl := { s.ctrl with sentinel := b } }

theorem witness_EncryptIsThePowerOfTheBlock_bad :
    (Runs (regs 0 7 0 8#32) 0x50C48000#32 .start fun s r => s.width / 8 - 1 < r.arg.toNat)
    ∧ (Runs (regs 0x100 7 0 1#32) 0x50C48000#32 .start fun s r =>
      r.arg.toNat ≤ s.width / 8 - 1 ∧ 2 ^ (8 * r.arg.toNat) ≤ r.src 1)
    ∧ (Runs (withSentinel (regs 0 7 0 1#32) 0#8) 0x50C48000#32 .start fun s r =>
      r.arg.toNat ≤ s.width / 8 - 1 ∧ r.src 1 < 2 ^ (8 * r.arg.toNat) ∧ block r = 0)
    ∧ Runs (withSentinel (regs 0 7 0) 1#8) 0x50C48000#32 .start fun s r =>
      r.arg.toNat ≤ s.width / 8 - 1 ∧ r.src 1 < 2 ^ (8 * r.arg.toNat) ∧ block r = 1 :=
  ⟨⟨rfl, by decide⟩, ⟨rfl, by decide +kernel⟩, ⟨rfl, by decide +kernel⟩, rfl, by decide +kernel⟩

theorem witness_EncryptIsThePowerOfTheBlock_good :
    (Runs (regs 0 0 0 7#32) 0x50C48000#32 .start fun s r =>
      r.arg.toNat ≤ s.width / 8 - 1 ∧ r.src 1 < 2 ^ (8 * r.arg.toNat) ∧ 2 ≤ block r ∧ r.src 2 = 0)
    ∧ Runs (withSentinel (regs 2 1 0 1#32) 0#8) 0x50C48000#32 .start fun s r =>
      r.arg.toNat ≤ s.width / 8 - 1 ∧ r.src 1 < 2 ^ (8 * r.arg.toNat) ∧ 2 ≤ block r ∧ 0 < r.src 2 :=
  ⟨⟨rfl, by decide +kernel⟩, rfl, by decide +kernel⟩

theorem witness_DecryptDropsTheLeadingByte :
    (Runs (regs 3 1 0) 0x54C49000#32 .start fun _ r => r.src 4 = 0)
    ∧ (Runs (regs 3 1 1) 0x54C49000#32 .start fun _ r => 0 < r.src 4 ∧ r.src 1 ^ r.src 2 % r.src 4 = 0)
    ∧ Runs (regs 1 1 2) 0x54C49000#32 .start fun _ r => 0 < r.src 4 ∧ 0 < r.src 1 ^ r.src 2 % r.src 4 :=
  ⟨⟨rfl, by decide⟩, ⟨rfl, by decide +kernel⟩, rfl, by decide +kernel⟩

/-- The example key of 46_cipher.md: `p = 263`, `q = 317`, `n = 21926573`, `d = 14229`, `pq = 83371`, and vector CIPH-1. -/
theorem witness_SsRoundTripRestoresThePayload :
    (Nat.Prime 263 ∧ Nat.Prime 317 ∧ (263 : Nat) ≠ 317 ∧ ¬ 263 ∣ 317 - 1 ∧ ¬ 317 ∣ 263 - 1
      ∧ modInverse (263 ^ 2 * 317) (Nat.lcm (263 - 1) (317 - 1)) = some 14229)
    ∧ (Runs (regs 0x41 21926573 0 1#32) 0x50C48000#32 .start fun s r => r.src 2 = 263 ^ 2 * 317
      ∧ r.arg.toNat ≤ s.width / 8 - 1 ∧ r.src 1 < 2 ^ (8 * r.arg.toNat) ∧ r.sentinel ≠ 0#8
      ∧ 2 ≤ blockInt r.sentinel r.arg.toNat (r.src 1) ∧ blockInt r.sentinel r.arg.toNat (r.src 1) < 263 * 317)
    ∧ ∃ t, exec (.encrypt 3 1 2) ((regs 0x41 21926573 0 1#32).accept 0x50C48000#32) = .next t
      ∧ Runs (regs 4225869 14229 83371) 0x54C49000#32 .start fun _ r => r.sentinel = 0xFF#8
        ∧ r.src 1 = t.readReg 3 ∧ r.src 2 = 14229 ∧ r.src 4 = 263 * 317 :=
  ⟨⟨by norm_num, by norm_num, by norm_num, by norm_num, by norm_num, by decide +kernel⟩, ⟨rfl, by decide +kernel⟩,
    _, rfl, rfl, by decide +kernel⟩

/-! ISPRIME and MAKEPRIME. -/

theorem witness_MillerRabinRoundIsTheStrongTest : 4 ≤ 4 ∧ mrRound 4 0 3 2 = .composite
    ∧ mrRound 5 2 1 2 = .inconclusive ∧ mrRound 5 2 1 3 = .inconclusive := by decide +kernel

theorem witness_IsprimeFirstStepDecidesTheTrivialCases :
    (Runs ((regs 4 0 0).setRng .unseeded) 0x44C40000#32 .start fun s r => r.progress = .start ∧ s.rng = .unseeded)
    ∧ (Runs (regs 1 0 0) 0x44C40000#32 .start fun s r => r.progress = .start ∧ s.rng.isSeeded = true ∧ r.src 1 ≤ 3)
    ∧ (Runs (regs 3 0 0) 0x44C40000#32 .start fun s r => r.progress = .start ∧ s.rng.isSeeded = true ∧ r.src 1 ≤ 3)
    ∧ Runs (regs 4 0 0) 0x44C40000#32 .start fun s r => r.progress = .start ∧ s.rng.isSeeded = true ∧ 4 ≤ r.src 1 :=
  ⟨⟨rfl, by decide⟩, ⟨rfl, by decide⟩, ⟨rfl, by decide⟩, rfl, by decide⟩

/-- For `n = 4` the witness is 2 and the round proves compositeness; for `n = 5` both witnesses pass
(`witness_MillerRabinRoundIsTheStrongTest`), so both verdicts are met whatever the generator. -/
theorem witness_IsprimePassRunsOneRound :
    (Runs (regs 4 0 0 0#32) 0x44C40000#32 (.primeLoop 0 3 0) fun s r => r.progress = .primeLoop 0 3 0
      ∧ s.rng = .seeded ⟨0⟩ ∧ 4 ≤ r.src 1 ∧ 0 = r.arg.toNat)
    ∧ (Runs (regs 4 0 0 1#32) 0x44C40000#32 (.primeLoop 0 3 0) fun s r => r.progress = .primeLoop 0 3 0
      ∧ s.rng = .seeded ⟨0⟩ ∧ 4 ≤ r.src 1 ∧ 0 ≠ r.arg.toNat)
    ∧ Runs (regs 5 0 0 1#32) 0x44C40000#32 (.primeLoop 2 1 0) fun s r => r.progress = .primeLoop 2 1 0
      ∧ s.rng = .seeded ⟨0⟩ ∧ 4 ≤ r.src 1 ∧ 0 ≠ r.arg.toNat :=
  ⟨⟨rfl, by decide⟩, ⟨rfl, by decide⟩, rfl, by decide⟩

theorem witness_IsprimeCompletes_PrimesAlwaysPass :
    (regs 7 0 0 1#32).env.events = [] ∧ decode 0x44C40000#32 = .ok (.isprime 3 1) ∧ (regs 7 0 0 1#32).rng.isSeeded = true
    ∧ Nat.Prime ((regs 7 0 0 1#32).readReg 1) ∧ 4 ≤ (regs 7 0 0 1#32).readReg 1 := by
  refine ⟨rfl, by decide, rfl, ?_, by decide⟩
  show Nat.Prime 7
  norm_num

theorem witness_CandidateForcesTopAndLowBit : 2 ≤ 2 ∧ 0 < 2 ^ 2 ∧ 2 ^ 2 - 1 < 2 ^ 2 := by decide

theorem witness_MakeprimeFirstStepChecksItsArgument :
    (Runs ((regs 0 0 0 3#32).setRng .unseeded) 0x48C00000#32 .start fun s r => r.progress = .start ∧ s.rng = .unseeded)
    ∧ (Runs (regs 0 0 0 1#32) 0x48C00000#32 .start fun s r => r.progress = .start ∧ s.rng.isSeeded = true
      ∧ r.arg.toNat % 2 ^ 16 < 2)
    ∧ (Runs (regs 0 0 0 65#32) 0x48C00000#32 .start fun s r => r.progress = .start ∧ s.rng.isSeeded = true
      ∧ s.width < r.arg.toNat % 2 ^ 16)
    ∧ Runs (regs 0 0 0 64#32) 0x48C00000#32 .start fun s r => r.progress = .start ∧ s.rng.isSeeded = true
      ∧ 2 ≤ r.arg.toNat % 2 ^ 16 ∧ r.arg.toNat % 2 ^ 16 ≤ s.width :=
  ⟨⟨rfl, by decide⟩, ⟨rfl, by decide⟩, ⟨rfl, by decide⟩, rfl, by decide⟩

/-- A state with MAXTRY changed. -/
def withCap (s : State) (c : Word) : State := { s with maxtry := c }

/-- With 2 bits the candidate is 3, and with 3 bits it is 5 or 7, whatever the generator, so both outcomes of the draw are
met. -/
theorem witness_MakeprimeDrawsOneCandidate :
    (Runs (withCap (regs 0 0 0 0x10002#32) 1#32) 0x48C00000#32 (.candidate 1) fun s r => r.progress = .candidate 1
      ∧ s.rng = .seeded ⟨0⟩ ∧ 2 ≤ r.arg.toNat % 2 ^ 16 ∧ r.maxtry ≠ 0#32 ∧ 1 = r.maxtry.toNat)
    ∧ (Runs (regs 0 0 0 0x10002#32) 0x48C00000#32 (.candidate 0) fun s r => r.progress = .candidate 0
      ∧ s.rng = .seeded ⟨0⟩ ∧ 2 ≤ r.arg.toNat % 2 ^ 16 ∧ r.maxtry = 0#32 ∧ ∀ v < 4, candidateOf 2 v = 3)
    ∧ Runs (withCap (regs 0 0 0 0x10003#32) 1#32) 0x48C00000#32 (.candidate 0) fun s r => r.progress = .candidate 0
      ∧ s.rng = .seeded ⟨0⟩ ∧ 2 ≤ r.arg.toNat % 2 ^ 16 ∧ 0 ≠ r.maxtry.toNat ∧ (∀ v < 8, candidateOf 3 v ≠ 3)
      ∧ 0 < r.arg.toNat / 2 ^ 16 :=
  ⟨⟨rfl, by decide⟩, ⟨rfl, by decide +kernel⟩, rfl, by decide +kernel⟩

/-- The candidate 5 passes every round; 9 with the witness 2 does not. -/
theorem witness_MakeprimeRunsOneRound :
    (Runs (regs 0 0 0 0x20003#32) 0x48C00000#32 (.candidateRound 1 5 2 1 0) fun s r =>
      r.progress = .candidateRound 1 5 2 1 0 ∧ s.rng = .seeded ⟨0⟩ ∧ 4 ≤ 5 ∧ 0 + 1 < r.arg.toNat / 2 ^ 16)
    ∧ (Runs (regs 0 0 0 0x20003#32) 0x48C00000#32 (.candidateRound 1 5 2 1 1) fun s r =>
      r.progress = .candidateRound 1 5 2 1 1 ∧ s.rng = .seeded ⟨0⟩ ∧ 4 ≤ 5 ∧ r.arg.toNat / 2 ^ 16 ≤ 1 + 1)
    ∧ (∀ a, a = 2 ∨ a = 3 → mrRound 5 2 1 a = .inconclusive)
    ∧ (Runs (regs 0 0 0 0x20004#32) 0x48C00000#32 (.candidateRound 1 9 3 1 0) fun s r =>
      r.progress = .candidateRound 1 9 3 1 0 ∧ s.rng = .seeded ⟨0⟩ ∧ 4 ≤ 9) ∧ mrRound 9 3 1 2 = .composite := by
  refine ⟨⟨rfl, by decide⟩, ⟨rfl, by decide⟩, ?_, ⟨rfl, by decide⟩, by decide +kernel⟩
  rintro a (rfl | rfl) <;> decide +kernel

theorem witness_MakeprimeResultIsOddOfExactLength :
    ∃ s t : State, s.Inv ∧ s.ctl = .busy (run (regs 0 0 0 2#32) 0x48C00000#32 (.candidate 0))
      ∧ decode 0x48C00000#32 = .ok (.makeprime 3) ∧ exec (.makeprime 3) s = .next t ∧ t.ctl = .idle
      ∧ t.status.err = .ok := by
  have hdraw (s : State) : makeprimeDraw Config.generator 3 (run (regs 0 0 0 2#32) 0x48C00000#32 (.candidate 0)) ⟨0⟩ 0 s
      = ((s.setRng (.seeded (drawB Config.generator ⟨0⟩ 2).2)).setTries 1).commitReg 3
        (candidateOf 2 (drawB Config.generator ⟨0⟩ 2).1) := by
    unfold makeprimeDraw
    rw [if_neg (by decide)]
    exact if_pos (.inr (.inr (by decide)))
  refine ⟨atProgress (regs 0 0 0 2#32) 0x48C00000#32 (.candidate 0),
    makeprimeDraw Config.generator 3 (run (regs 0 0 0 2#32) 0x48C00000#32 (.candidate 0)) ⟨0⟩ 0
      (atProgress (regs 0 0 0 2#32) 0x48C00000#32 (.candidate 0)), ⟨by decide, by unfold State.RegsFit; decide +kernel, ?_⟩,
    rfl, by decide, rfl, ?_, ?_⟩
  · rintro r ⟨⟩
    exact ⟨rfl, rfl, rfl, by decide +kernel, 3, by decide, rfl, by decide, by decide, rfl, by decide +kernel⟩
  · rw [hdraw]
    rfl
  · rw [hdraw]
    rfl

theorem witness_CappedMakeprimeCompletes : ∃ s : State, s.env.events = [] ∧ decode 0x48C00000#32 = .ok (.makeprime 3)
    ∧ s.maxtry ≠ 0#32 := ⟨withCap (regs 0 0 0 0x10004#32) 1#32, rfl, by decide, by decide⟩

theorem witness_UncappedMakeprimeMayRunForEver :
    (Runs (regs 0 0 0 0x320004#32) 0x48C00000#32 (.candidate 0) fun s r => s.rng.isSeeded = true ∧ r.primeBits = 4
      ∧ 0 < r.primeIters ∧ r.maxtry = 0#32 ∧ r.progress = .candidate 0)
    ∧ Runs (regs 0 0 0 0x320004#32) 0x48C00000#32 (.candidateRound 1 9 3 1 0) fun s r => s.rng.isSeeded = true
      ∧ r.primeBits = 4 ∧ 0 < r.primeIters ∧ r.maxtry = 0#32 ∧ r.progress = .candidateRound 1 9 3 1 0 :=
  ⟨⟨rfl, by decide⟩, rfl, by decide⟩

end Sys2Proof.Tests
end

section
/-! PROOF. What one micro-step of a command can do, said once for all 22 commands (`CommandStep`, `exec_cases`), and what
follows for every command: the frame of the host's side and the producers of the flags (10_state.md R32 to R34). -/

namespace Sys2Proof

/-- The commands whose meaning may change the generator (41_random.md R130, R136). -/
def Instr.usesGenerator : Instr → Bool
  | .seed _ | .rngclr | .randb _ | .randm _ _ | .isprime _ _ | .makeprime _ => true
  | _ => false

/-- The commands of more than one micro-step (60_exceptions.md R207). -/
def Instr.isLooping : Instr → Bool
  | .isprime _ _ | .makeprime _ => true
  | _ => false

theorem Instr.usesGenerator_of_isLooping {i : Instr} (h : i.isLooping = true) : i.usesGenerator = true := by
  unfold Instr.isLooping at h
  split at h
  · rfl
  · rfl
  · cases h

end Sys2Proof

namespace Sys2Proof.Machine

/-! The opcode of a decoded word. -/

/-- The decoder answers a command only for the command's own opcode (30_encoding.md R75). -/
theorem opField_of_decode {cw : Word} {i : Instr} (h : decode cw = .ok i) : opField cw = i.opcode := by
  unfold decode at h
  split at h <;> cases h <;> exact BitVec.eq_of_toNat_eq (by assumption)

theorem clearsRounds_of_isprime {cw : Word} {rd rs1 : Reg} (h : decode cw = .ok (.isprime rd rs1)) :
    clearsRounds cw = true := by
  simp [clearsRounds, opField_of_decode h, Instr.opcode]

theorem clearsTries_of_makeprime {cw : Word} {rd : Reg} (h : decode cw = .ok (.makeprime rd)) :
    clearsTries cw = true := by
  simp [clearsTries, opField_of_decode h, Instr.opcode]

/-! What the invariant says of a running command. -/

/-- `i` is the running command of a state that meets the invariant. -/
structure State.Executing (s : State) (r : Running) (i : Instr) : Prop where
  inv : s.Inv
  busy : s.ctl = .busy r
  decoded : decode r.cw = .ok i

namespace State.Executing

variable {s : State} {r : Running} {i : Instr}

theorem busyInv (h : s.Executing r i) : s.BusyInv r := h.inv.busy_inv r h.busy

/-- A latched operand fits a register (10_state.md R21). -/
theorem src_lt (h : s.Executing r i) {ρ : Reg} (hρ : ρ ∈ i.sources) : r.src ρ < 2 ^ s.width := by
  rw [Running.src_of_snapshot h.busyInv.snapshot_current h.decoded hρ]
  exact h.inv.regs_fit ρ

end State.Executing

/-- The least width is 64 (00_scope.md R7). -/
theorem State.Inv.le_width {s : State} (h : s.Inv) : 64 ≤ s.width := by
  have hp := h.params_legal
  simp only [Config.Params.wf, Bool.and_eq_true, decide_eq_true_eq] at hp
  simp only [State.width, Config.Params.width]
  omega

/-- A 32-bit word fits a register. -/
theorem State.Inv.word_lt {s : State} (h : s.Inv) (w : Word) : w.toNat < 2 ^ s.width :=
  lt_of_lt_of_le w.isLt (Nat.pow_le_pow_right (by omega) (by have := h.le_width; omega))

theorem State.Inv.bool_lt {s : State} (h : s.Inv) (v : Bool) : v.toNat < 2 ^ s.width :=
  lt_of_le_of_lt (Bool.toNat_le v) (Nat.one_lt_two_pow (by have := h.le_width; omega))

/-! Everything one micro-step can do. -/

/-- `s` with the generator and the two counters replaced: all that a command writes before it ends. -/
def State.withDraws (s : State) (g : Rng) (tries rounds : Word) : State :=
  { s with rng := g, trycnt := tries, rndcnt := rounds }

section
variable (s : State) (g : Rng) (tries rounds : Word)

@[simp] theorem State.withDraws_rng : (s.withDraws g tries rounds).rng = g := rfl
@[simp] theorem State.withDraws_trycnt : (s.withDraws g tries rounds).trycnt = tries := rfl
@[simp] theorem State.withDraws_rndcnt : (s.withDraws g tries rounds).rndcnt = rounds := rfl

end

/-- Everything a micro-step of a Busy controller can do for the command `i`, the abort test and ILLEGAL aside
(60_exceptions.md R203, R204, R207). Where a value is written or a progress is reached, `fits` says what the invariant
makes of it. -/
inductive CommandStep (s : State) (r : Running) : Instr → State → Prop
  | raised {i : Instr} {e : ErrCode} (he : e ≠ .ok) : CommandStep s r i (s.raise e)
  | committed {i : Instr} {g : Rng} (draws : i.usesGenerator = true ∨ g = s.rng) :
      CommandStep s r i (s.setRng g).commit
  | compared {rs1 rs2 : Reg} {a b : Nat} :
      CommandStep s r (.cmp rs1 rs2) ({ s with status := s.status.compared a b } : State).commit
  | wroteReg {i : Instr} {rd : Reg} {v : Nat} {g : Rng} {tries rounds : Word}
      (draws : i.usesGenerator = true ∨ g = s.rng) (fits : s.Executing r i → v < 2 ^ s.width) :
      CommandStep s r i ((s.withDraws g tries rounds).commitReg rd v)
  | wroteTwo {rd rs1 rs2 rr : Reg} {q m : Nat}
      (fits : s.Executing r (.divmod rd rs1 rs2 rr) → q < 2 ^ s.width ∧ m < 2 ^ s.width) :
      CommandStep s r (.divmod rd rs1 rs2 rr) ((s.writeReg rd q).commitReg rr m)
  | verdict {rd rs1 : Reg} {v : Bool} {g : Rng} {tries rounds : Word} :
      CommandStep s r (.isprime rd rs1) ((s.withDraws g tries rounds).commitVerdict rd v)
  | payload {rd rs1 rs2 rs3 : Reg} {m : Nat} {b : Byte}
      (fits : s.Executing r (.decrypt rd rs1 rs2 rs3) → payloadOf m < 2 ^ s.width) :
      CommandStep s r (.decrypt rd rs1 rs2 rs3) (s.commitPayload rd m b)
  | goesOn {i : Instr} {p : Progress} {g : Rng} {tries rounds : Word} (loops : i.isLooping = true)
      (fits : s.Executing r i → (s.withDraws g tries rounds).ProgressFits { r with progress := p }) :
      CommandStep s r i ((s.withDraws g tries rounds).setProgress r p)

/-- The outcome `o` is a next state that a micro-step of `i` can leave. -/
def CommandAnswer (s : State) (r : Running) (i : Instr) (o : Outcome) : Prop := ∃ t, o = .next t ∧ CommandStep s r i t

theorem CommandStep.answer {s t : State} {r : Running} {i : Instr} (h : CommandStep s r i t) :
    CommandAnswer s r i (.next t) := ⟨t, rfl, h⟩

section
variable {s : State} {r : Running} (hb : s.ctl = .busy r)

/-- One register written, no draw made. -/
theorem commandStep_commitReg {i : Instr} {rd : Reg} {v : Nat} (fits : s.Executing r i → v < 2 ^ s.width) :
    CommandStep s r i (s.commitReg rd v) := .wroteReg (tries := s.trycnt) (rounds := s.rndcnt) (.inr rfl) fits

/-- An exact result is committed only where it fits (40_bigint.md R110). -/
theorem commandStep_commitFitting (i : Instr) (rd : Reg) (v : Nat) : CommandStep s r i (s.commitFitting rd v) := by
  unfold State.commitFitting
  split
  · exact .raised (by decide)
  · exact commandStep_commitReg fun _ => by omega

/-- A verdict without a draw. -/
theorem commandStep_commitVerdict (rd rs1 : Reg) (v : Bool) :
    CommandStep s r (.isprime rd rs1) (s.commitVerdict rd v) :=
  .verdict (g := s.rng) (tries := s.trycnt) (rounds := s.rndcnt)

include hb

/-! The big-integer unit (40_bigint.md). -/

theorem execNop_answer : CommandAnswer s r .nop (execNop s) := by
  rw [execNop, State.whileBusy_busy hb]
  exact (CommandStep.committed (.inr rfl)).answer

theorem execLdi_answer (rd : Reg) : CommandAnswer s r (.ldi rd) (execLdi rd s) := by
  rw [execLdi, State.whileBusy_busy hb]
  exact (commandStep_commitReg fun hx => hx.inv.word_lt r.arg).answer

theorem execMov_answer (rd rs1 : Reg) : CommandAnswer s r (.mov rd rs1) (execMov rd rs1 s) := by
  rw [execMov, State.whileBusy_busy hb]
  exact (commandStep_commitReg fun hx => hx.src_lt (by simp [Instr.sources])).answer

theorem execAdd_answer (rd rs1 rs2 : Reg) : CommandAnswer s r (.add rd rs1 rs2) (execAdd rd rs1 rs2 s) := by
  rw [execAdd, State.whileBusy_busy hb]
  exact (commandStep_commitFitting _ rd _).answer

theorem execSub_answer (rd rs1 rs2 : Reg) : CommandAnswer s r (.sub rd rs1 rs2) (execSub rd rs1 rs2 s) := by
  rw [execSub, State.whileBusy_busy hb]
  split
  · exact (CommandStep.raised (by decide)).answer
  · exact (commandStep_commitReg fun hx =>
      lt_of_le_of_lt (Nat.sub_le _ _) (hx.src_lt (by simp [Instr.sources]))).answer

theorem execMul_answer (rd rs1 rs2 : Reg) : CommandAnswer s r (.mul rd rs1 rs2) (execMul rd rs1 rs2 s) := by
  rw [execMul, State.whileBusy_busy hb]
  exact (commandStep_commitFitting _ rd _).answer

theorem execDivmod_answer (rd rs1 rs2 rr : Reg) :
    CommandAnswer s r (.divmod rd rs1 rs2 rr) (execDivmod rd rs1 rs2 rr s) := by
  rw [execDivmod, State.whileBusy_busy hb]
  split
  · exact (CommandStep.raised (by decide)).answer
  · refine (CommandStep.wroteTwo fun hx => ?_).answer
    have h1 := hx.src_lt (ρ := rs1) (by simp [Instr.sources])
    exact ⟨lt_of_le_of_lt (Nat.div_le_self _ _) h1, lt_of_le_of_lt (Nat.mod_le _ _) h1⟩

theorem execCmp_answer (rs1 rs2 : Reg) : CommandAnswer s r (.cmp rs1 rs2) (execCmp rs1 rs2 s) := by
  rw [execCmp, State.whileBusy_busy hb]
  exact CommandStep.compared.answer

theorem execBitlen_answer (rd rs1 : Reg) : CommandAnswer s r (.bitlen rd rs1) (execBitlen rd rs1 s) := by
  rw [execBitlen, State.whileBusy_busy hb]
  refine (commandStep_commitReg fun hx => ?_).answer
  exact lt_of_le_of_lt ((bitlen_le_iff _ _).mpr (hx.src_lt (by simp [Instr.sources]))) Nat.lt_two_pow_self

theorem execModmul_answer (rd rs1 rs2 rs3 : Reg) :
    CommandAnswer s r (.modmul rd rs1 rs2 rs3) (execModmul rd rs1 rs2 rs3 s) := by
  rw [execModmul, State.whileBusy_busy hb]
  split
  · exact (CommandStep.raised (by decide)).answer
  · next h => exact (commandStep_commitReg fun hx =>
      (Nat.mod_lt _ (Nat.pos_of_ne_zero h)).trans (hx.src_lt (by simp [Instr.sources]))).answer

/-! The random source (41_random.md). -/

theorem execSeed_answer (rs1 : Reg) : CommandAnswer s r (.seed rs1) (execSeed rs1 s) := by
  rw [execSeed, seedStep, State.whileBusy_busy hb]
  exact (CommandStep.committed (.inl rfl)).answer

theorem execRngclr_answer : CommandAnswer s r .rngclr (execRngclr s) := by
  rw [execRngclr, State.whileBusy_busy hb]
  exact (CommandStep.committed (.inl rfl)).answer

theorem execRandb_answer (rd : Reg) : CommandAnswer s r (.randb rd) (execRandb rd s) := by
  rw [execRandb, randbStep, State.whileBusy_busy hb]
  split
  · exact (CommandStep.raised (by decide)).answer
  · next σ _ =>
    split
    · exact (CommandStep.raised (by decide)).answer
    · next hbits =>
      refine (CommandStep.wroteReg (tries := s.trycnt) (rounds := s.rndcnt) (.inl rfl) fun _ => ?_).answer
      exact lt_of_lt_of_le (drawB_lt _ σ _) (Nat.pow_le_pow_right (by omega) (by omega))

theorem execRandm_answer (rd rs1 : Reg) : CommandAnswer s r (.randm rd rs1) (execRandm rd rs1 s) := by
  rw [execRandm, randmStep, State.whileBusy_busy hb]
  split
  · exact (CommandStep.raised (by decide)).answer
  · next σ _ =>
    split
    · exact (CommandStep.raised (by decide)).answer
    · next h =>
      refine (CommandStep.wroteReg (tries := s.trycnt) (rounds := s.rndcnt) (.inl rfl) fun hx => ?_).answer
      exact (drawM_lt _ σ _ (Nat.pos_of_ne_zero h)).trans (hx.src_lt (by simp [Instr.sources]))

/-! The GCD unit and the exponentiation engine (42_gcd.md, 43_powmod.md). -/

theorem execGcd_answer (rd rs1 rs2 : Reg) : CommandAnswer s r (.gcd rd rs1 rs2) (execGcd rd rs1 rs2 s) := by
  rw [execGcd, State.whileBusy_busy hb]
  refine (commandStep_commitReg fun hx => ?_).answer
  have h1 := hx.src_lt (ρ := rs1) (by simp [Instr.sources])
  have h2 := hx.src_lt (ρ := rs2) (by simp [Instr.sources])
  rw [euclid_eq]
  rcases Nat.eq_zero_or_pos (r.src rs1) with h0 | hpos
  · rwa [h0, Nat.gcd_zero_left]
  · exact lt_of_le_of_lt (Nat.gcd_le_left _ hpos) h1

theorem execModinv_answer (rd rs1 rs2 : Reg) : CommandAnswer s r (.modinv rd rs1 rs2) (execModinv rd rs1 rs2 s) := by
  rw [execModinv, State.whileBusy_busy hb]
  split
  · exact (CommandStep.raised (by decide)).answer
  · next h =>
    split
    · exact (CommandStep.raised (by decide)).answer
    · next v hv => exact (commandStep_commitReg fun hx =>
        (modInverse_eq_some _ _ v (Nat.pos_of_ne_zero h) hv).1.trans (hx.src_lt (by simp [Instr.sources]))).answer

theorem execPowmod_answer (rd rs1 rs2 rs3 : Reg) :
    CommandAnswer s r (.powmod rd rs1 rs2 rs3) (execPowmod rd rs1 rs2 rs3 s) := by
  rw [execPowmod, State.whileBusy_busy hb]
  split
  · exact (CommandStep.raised (by decide)).answer
  · next h => exact (commandStep_commitReg fun hx =>
      (powmod_lt _ _ _ (Nat.pos_of_ne_zero h)).trans (hx.src_lt (by simp [Instr.sources]))).answer

/-! The block wrapper (46_cipher.md). -/

theorem execBlksz_answer (rd rs1 : Reg) : CommandAnswer s r (.blksz rd rs1) (execBlksz rd rs1 s) := by
  rw [execBlksz, State.whileBusy_busy hb]
  split
  · exact (CommandStep.raised (by decide)).answer
  · refine (commandStep_commitReg fun hx => ?_).answer
    have hle := (bitlen_le_iff _ _).mpr (hx.src_lt (ρ := rs1) (by simp [Instr.sources]))
    exact lt_of_le_of_lt (show (bitlen (r.src rs1) - 1) / 8 ≤ s.width by omega) Nat.lt_two_pow_self

theorem execEncrypt_answer (rd rs1 rs2 : Reg) : CommandAnswer s r (.encrypt rd rs1 rs2) (execEncrypt rd rs1 rs2 s) := by
  rw [execEncrypt, State.whileBusy_busy hb]
  split_ifs with _ _ _ h
  · exact (CommandStep.raised (by decide)).answer
  · exact (CommandStep.raised (by decide)).answer
  · exact (CommandStep.raised (by decide)).answer
  · exact (CommandStep.raised (by decide)).answer
  · exact (commandStep_commitReg fun hx =>
      (powmod_lt _ _ _ (Nat.pos_of_ne_zero h)).trans (hx.src_lt (by simp [Instr.sources]))).answer

theorem execDecrypt_answer (rd rs1 rs2 rs3 : Reg) :
    CommandAnswer s r (.decrypt rd rs1 rs2 rs3) (execDecrypt rd rs1 rs2 rs3 s) := by
  rw [execDecrypt, State.whileBusy_busy hb]
  split_ifs with h
  · exact (CommandStep.raised (by decide)).answer
  · exact (CommandStep.raised (by decide)).answer
  · refine (CommandStep.payload fun hx => ?_).answer
    exact (lt_of_le_of_lt (Nat.mod_le _ _) (powmod_lt _ _ _ (Nat.pos_of_ne_zero h))).trans
      (hx.src_lt (by simp [Instr.sources]))

end

/-! The Miller-Rabin controller (44_isprime.md). -/

section
variable {s : State} {r : Running} {rd rs1 : Reg} {σ : Config.RngState}

/-- Outside its loop ISPRIME has counted no round (60_exceptions.md R201, 44_isprime.md R160). -/
theorem State.Executing.rndcnt_eq_zero (h : s.Executing r (.isprime rd rs1))
    (hp : ∀ sh odd i, r.progress ≠ .primeLoop sh odd i) : s.rndcnt = 0#32 := by
  have hfit := h.busyInv.progress_fits
  unfold State.ProgressFits at hfit
  split at hfit
  · exact hfit.1 (clearsRounds_of_isprime h.decoded)
  · next hr => exact absurd hr (hp _ _ _)
  · obtain ⟨_, hd, _⟩ := hfit
    cases h.decoded.symm.trans hd
  · obtain ⟨_, hd, _⟩ := hfit
    cases h.decoded.symm.trans hd

/-- The checks of ISPRIME end the command or enter its loop with no round counted. -/
theorem isprimeFirst_commandStep (hσ : s.rng = .seeded σ) (hp : ∀ sh odd i, r.progress ≠ .primeLoop sh odd i) :
    CommandStep s r (.isprime rd rs1) (isprimeFirst rd (r.src rs1) r s) := by
  unfold isprimeFirst
  split_ifs with h1 h2
  · exact commandStep_commitVerdict rd rs1 false
  · exact commandStep_commitVerdict rd rs1 true
  · refine .goesOn (g := s.rng) (tries := s.trycnt) (rounds := s.rndcnt) rfl fun hx => ?_
    exact ⟨rd, rs1, hx.decoded, by simp [hσ, Rng.isSeeded], show 4 ≤ r.src rs1 by omega, rfl,
      Nat.zero_le _, hx.rndcnt_eq_zero hp⟩

/-- A loop pass of ISPRIME ends the command or counts one round and goes to the next. -/
theorem isprimePass_commandStep {g : Config.Generator} {sh odd i : Nat} (hp : r.progress = .primeLoop sh odd i) :
    CommandStep s r (.isprime rd rs1) (isprimePass g rd (r.src rs1) r σ sh odd i s) := by
  unfold isprimePass
  split
  · exact commandStep_commitVerdict rd rs1 true
  · next hi =>
    split
    · exact .verdict (tries := s.trycnt) (rounds := s.rndcnt + 1#32)
    · refine .goesOn (tries := s.trycnt) (rounds := s.rndcnt + 1#32) rfl fun hx => ?_
      have hfit := hx.busyInv.progress_fits
      simp only [State.ProgressFits, hp] at hfit
      obtain ⟨_, _, hd, _, hn, hdec, hle, hcnt⟩ := hfit
      cases hx.decoded.symm.trans hd
      refine ⟨rd, rs1, hx.decoded, rfl, hn, hdec, show i + 1 ≤ r.iters by omega, ?_⟩
      simp [hcnt, BitVec.ofNat_add]

theorem execIsprime_answer (hb : s.ctl = .busy r) (rd rs1 : Reg) :
    CommandAnswer s r (.isprime rd rs1) (execIsprime rd rs1 s) := by
  rw [execIsprime, isprimeStep, State.whileBusy_busy hb]
  split
  · exact (CommandStep.raised (by decide)).answer
  · next σ hσ =>
    split
    · next hp => exact (isprimePass_commandStep hp).answer
    all_goals next hp => exact (isprimeFirst_commandStep hσ (by simp [hp])).answer

end

/-! The prime-candidate generator (45_makeprime.md). -/

section
variable {s : State} {r : Running} {rd : Reg} {σ : Config.RngState}

/-- Outside its search MAKEPRIME has drawn no candidate (60_exceptions.md R201, 45_makeprime.md R170). -/
theorem State.Executing.trycnt_eq_zero (h : s.Executing r (.makeprime rd)) (hc : ∀ t, r.progress ≠ .candidate t)
    (hr : ∀ t c sh odd i, r.progress ≠ .candidateRound t c sh odd i) : s.trycnt = 0#32 := by
  have hfit := h.busyInv.progress_fits
  unfold State.ProgressFits at hfit
  split at hfit
  · exact hfit.2 (clearsTries_of_makeprime h.decoded)
  · obtain ⟨_, _, hd, _⟩ := hfit
    cases h.decoded.symm.trans hd
  · next hp => exact absurd hp (hc _)
  · next hp => exact absurd hp (hr _ _ _ _ _)

/-- The checks of MAKEPRIME raise BADARG or begin the search with no candidate drawn. -/
theorem makeprimeFirst_commandStep (hσ : s.rng = .seeded σ) (hc : ∀ t, r.progress ≠ .candidate t)
    (hr : ∀ t c sh odd i, r.progress ≠ .candidateRound t c sh odd i) :
    CommandStep s r (.makeprime rd) (makeprimeFirst r s) := by
  unfold makeprimeFirst
  split
  · exact .raised (by decide)
  · next hbits =>
    refine .goesOn (g := s.rng) (tries := s.trycnt) (rounds := s.rndcnt) rfl fun hx => ?_
    exact ⟨rd, hx.decoded, by simp [hσ, Rng.isSeeded], show 2 ≤ r.primeBits by omega,
      show r.primeBits ≤ s.width by omega, hx.trycnt_eq_zero hc hr, fun _ => Nat.zero_le _⟩

/-- A candidate that is not 3 is an odd number of at least 5. -/
theorem five_le_candidateOf {bits v : Nat} (hb : 2 ≤ bits) (h3 : candidateOf bits v ≠ 3) :
    5 ≤ candidateOf bits v := by
  obtain ⟨hlo, hodd⟩ := candidateOf_bounds bits v
  have h2 : 2 ^ 1 ≤ 2 ^ (bits - 1) := Nat.pow_le_pow_right (by omega) (by omega)
  omega

/-- A draw of MAKEPRIME raises NOPRIME at the cap, commits its candidate, or takes it to its rounds. -/
theorem makeprimeDraw_commandStep {g : Config.Generator} {t : Nat} (hp : r.progress = .candidate t) :
    CommandStep s r (.makeprime rd) (makeprimeDraw g rd r σ t s) := by
  have hfits (hx : s.Executing r (.makeprime rd)) : s.ProgressFits r := hx.busyInv.progress_fits
  simp only [State.ProgressFits, hp] at hfits
  unfold makeprimeDraw
  split
  · exact .raised (by decide)
  · next hcap =>
    dsimp only
    split
    · refine .wroteReg (tries := BitVec.ofNat 32 (t + 1)) (rounds := s.rndcnt) (.inl rfl) fun hx => ?_
      obtain ⟨_, _, _, hlo, hhi, _⟩ := hfits hx
      exact lt_of_lt_of_le (candidateOf_lt _ _ (by omega) (drawB_lt g σ _)) (Nat.pow_le_pow_right (by omega) hhi)
    · next hc =>
      refine .goesOn (tries := BitVec.ofNat 32 (t + 1)) (rounds := s.rndcnt) rfl fun hx => ?_
      obtain ⟨_, _, _, hlo, hhi, _, hmax⟩ := hfits hx
      refine ⟨rd, hx.decoded, rfl, hlo, hhi, rfl, Nat.le_add_left _ _, fun hm => ?_, ?_, (candidateOf_bounds _ _).2,
        bitlen_candidateOf _ _ (by omega) (drawB_lt g σ _), rfl, ?_⟩
      · have := hmax hm
        show t + 1 ≤ r.maxtry.toNat
        have : t ≠ r.maxtry.toNat := fun ht => hcap ⟨hm, ht⟩
        omega
      · exact five_le_candidateOf hlo (by tauto)
      · show 0 < r.primeIters
        omega

/-- A round of MAKEPRIME rejects the candidate, takes it to its next round, or commits it. -/
theorem makeprimeRound_commandStep {g : Config.Generator} {t c sh odd i : Nat}
    (hp : r.progress = .candidateRound t c sh odd i) :
    CommandStep s r (.makeprime rd) (makeprimeRound g rd r σ t c sh odd i s) := by
  have hfits (hx : s.Executing r (.makeprime rd)) : s.ProgressFits r := hx.busyInv.progress_fits
  simp only [State.ProgressFits, hp] at hfits
  unfold makeprimeRound
  dsimp only
  split
  · refine .goesOn (tries := s.trycnt) (rounds := s.rndcnt + 1#32) rfl fun hx => ?_
    obtain ⟨_, _, _, hlo, hhi, htry, _, hmax, _⟩ := hfits hx
    exact ⟨rd, hx.decoded, rfl, hlo, hhi, htry, hmax⟩
  · split
    · next hi =>
      refine .goesOn (tries := s.trycnt) (rounds := s.rndcnt + 1#32) rfl fun hx => ?_
      obtain ⟨_, _, _, hlo, hhi, htry, h1, hmax, h5, hodd, hlen, hdec, _⟩ := hfits hx
      exact ⟨rd, hx.decoded, rfl, hlo, hhi, htry, h1, hmax, h5, hodd, hlen, hdec, hi⟩
    · refine .wroteReg (tries := s.trycnt) (rounds := s.rndcnt + 1#32) (.inl rfl) fun hx => ?_
      obtain ⟨_, _, _, _, hhi, _, _, _, _, _, hlen, _, _⟩ := hfits hx
      exact (bitlen_le_iff _ _).mp (hlen.trans_le hhi)

theorem execMakeprime_answer (hb : s.ctl = .busy r) (rd : Reg) :
    CommandAnswer s r (.makeprime rd) (execMakeprime rd s) := by
  rw [execMakeprime, makeprimeStep, State.whileBusy_busy hb]
  split
  · exact (CommandStep.raised (by decide)).answer
  · next σ hσ =>
    split
    · next hp => exact (makeprimeDraw_commandStep hp).answer
    · next hp => exact (makeprimeRound_commandStep hp).answer
    all_goals next hp => exact (makeprimeFirst_commandStep hσ (by simp [hp]) (by simp [hp])).answer

end

/-! All commands. -/

/-- Every micro-step of a running command answers a next state, and the state is one of `CommandStep`. -/
theorem exec_answer {s : State} {r : Running} (hb : s.ctl = .busy r) (i : Instr) : CommandAnswer s r i (exec i s) := by
  cases i with
  | nop => exact execNop_answer hb
  | ldi rd => exact execLdi_answer hb rd
  | mov rd rs1 => exact execMov_answer hb rd rs1
  | add rd rs1 rs2 => exact execAdd_answer hb rd rs1 rs2
  | sub rd rs1 rs2 => exact execSub_answer hb rd rs1 rs2
  | mul rd rs1 rs2 => exact execMul_answer hb rd rs1 rs2
  | divmod rd rs1 rs2 rr => exact execDivmod_answer hb rd rs1 rs2 rr
  | cmp rs1 rs2 => exact execCmp_answer hb rs1 rs2
  | bitlen rd rs1 => exact execBitlen_answer hb rd rs1
  | modmul rd rs1 rs2 rs3 => exact execModmul_answer hb rd rs1 rs2 rs3
  | seed rs1 => exact execSeed_answer hb rs1
  | rngclr => exact execRngclr_answer hb
  | randb rd => exact execRandb_answer hb rd
  | randm rd rs1 => exact execRandm_answer hb rd rs1
  | gcd rd rs1 rs2 => exact execGcd_answer hb rd rs1 rs2
  | modinv rd rs1 rs2 => exact execModinv_answer hb rd rs1 rs2
  | powmod rd rs1 rs2 rs3 => exact execPowmod_answer hb rd rs1 rs2 rs3
  | isprime rd rs1 => exact execIsprime_answer hb rd rs1
  | makeprime rd => exact execMakeprime_answer hb rd
  | blksz rd rs1 => exact execBlksz_answer hb rd rs1
  | encrypt rd rs1 rs2 => exact execEncrypt_answer hb rd rs1 rs2
  | decrypt rd rs1 rs2 rs3 => exact execDecrypt_answer hb rd rs1 rs2 rs3

/-- Every command waits on the running command, so an Idle controller does nothing (20_memory.md R58; log 7). -/
theorem exec_idle {s : State} (h : s.ctl = .idle) (i : Instr) : exec i s = .next s := by
  cases i <;> exact State.whileBusy_idle h _

theorem commandStep_of_exec {s t : State} {r : Running} {i : Instr} (hb : s.ctl = .busy r) (h : exec i s = .next t) :
    CommandStep s r i t := by
  obtain ⟨u, hu, hstep⟩ := exec_answer hb i
  cases hu.symm.trans h
  exact hstep

/-- Everything `exec` can do: nothing while Idle, else one of `CommandStep`. -/
theorem exec_cases {s t : State} {i : Instr} (h : exec i s = .next t) :
    (s.ctl = .idle ∧ t = s) ∨ ∃ r, s.ctl = .busy r ∧ CommandStep s r i t := by
  cases hc : s.ctl with
  | idle =>
    cases (exec_idle hc i).symm.trans h
    exact .inl ⟨rfl, rfl⟩
  | busy r => exact .inr ⟨r, rfl, commandStep_of_exec hc h⟩

/-! The host's side and the end of a command. -/

theorem HostPartSame.refl (s : State) : HostPartSame s s := ⟨rfl, rfl, rfl, rfl, rfl, rfl, rfl, rfl⟩

/-- No command writes the host's side (10_state.md R33). -/
theorem CommandStep.host {s t : State} {r : Running} {i : Instr} (h : CommandStep s r i t) : HostPartSame s t := by
  cases h <;> exact ⟨rfl, rfl, rfl, rfl, rfl, rfl, rfl, rfl⟩

/-- A command that is no longer running has ended as 60_exceptions.md R203 and R204 say. -/
theorem CommandStep.ended {s t : State} {r : Running} {i : Instr} (h : CommandStep s r i t) (hi : t.ctl = .idle) :
    Ended s t t.status.err := by
  refine ⟨hi, ?_, rfl, h.host⟩
  cases h with
  | goesOn => cases hi
  | _ => rfl

/-- A command outside the random source leaves the generator alone (41_random.md R136). -/
theorem CommandStep.rng_eq {s t : State} {r : Running} {i : Instr} (h : CommandStep s r i t)
    (hi : i.usesGenerator = false) : t.rng = s.rng := by
  cases h with
  | committed draws => exact draws.resolve_left (by simp [hi])
  | wroteReg draws => exact draws.resolve_left (by simp [hi])
  | verdict => cases hi
  | goesOn loops => exact absurd (Instr.usesGenerator_of_isLooping loops) (by simp [hi])
  | _ => rfl

/-- RES has one producer, ISPRIME (10_state.md R32). -/
theorem CommandStep.isprime_of_res_ne {s t : State} {r : Running} {i : Instr} (h : CommandStep s r i t)
    (hne : t.status.res ≠ s.status.res) : (∃ rd rs1, i = .isprime rd rs1) ∧ Ended s t .ok := by
  have hend := h.ended
  cases h with
  | verdict => exact ⟨⟨_, _, rfl⟩, hend rfl⟩
  | _ => exact absurd rfl hne

/-- EQ and LT have one producer, CMP (10_state.md R32). -/
theorem CommandStep.cmp_of_eq_or_lt_ne {s t : State} {r : Running} {i : Instr} (h : CommandStep s r i t)
    (hne : t.status.eq ≠ s.status.eq ∨ t.status.lt ≠ s.status.lt) : (∃ rs1 rs2, i = .cmp rs1 rs2) ∧ Ended s t .ok := by
  have hend := h.ended
  cases h with
  | compared => exact ⟨⟨_, _, rfl⟩, hend rfl⟩
  | _ => exact absurd hne (not_or.mpr ⟨not_not.mpr rfl, not_not.mpr rfl⟩)

/-- SM and RESLEN have one producer, DECRYPT (10_state.md R32, R34). -/
theorem CommandStep.decrypt_of_sm_or_reslen_ne {s t : State} {r : Running} {i : Instr} (h : CommandStep s r i t)
    (hne : t.status.sm ≠ s.status.sm ∨ t.reslen ≠ s.reslen) :
    (∃ rd rs1 rs2 rs3, i = .decrypt rd rs1 rs2 rs3) ∧ Ended s t .ok := by
  have hend := h.ended
  cases h with
  | payload => exact ⟨⟨_, _, _, _, rfl⟩, hend rfl⟩
  | _ => exact absurd hne (not_or.mpr ⟨not_not.mpr rfl, not_not.mpr rfl⟩)

/-- Settles O16: a micro-step of an Idle controller changes nothing, and `CommandStep` leaves the host's side alone. -/
theorem commandsLeaveTheHostSideAlone : Obligations.CommandsLeaveTheHostSideAlone := by
  intro i s t h
  obtain ⟨-, rfl⟩ | ⟨r, -, hstep⟩ := exec_cases h
  · exact .refl t
  · exact hstep.host

/-- Settles O18, from the one case of `CommandStep` that writes the flag. -/
theorem eachFlagHasOneProducer : Obligations.EachFlagHasOneProducer := by
  intro i s t h
  obtain ⟨-, rfl⟩ | ⟨r, -, hstep⟩ := exec_cases h
  · simp
  · exact ⟨hstep.isprime_of_res_ne, hstep.cmp_of_eq_or_lt_ne, hstep.decrypt_of_sm_or_reslen_ne⟩

end Sys2Proof.Machine
end

section
/-! PROOF. The invariant of the device: the reset state meets it, and every host access, every micro-step and every reset
keeps it. -/

namespace Sys2Proof.Machine

/-! What the invariant reads. -/

/-- An Idle controller owes the invariant only legal parameters and fitting registers. -/
theorem State.Inv.of_idle {s : State} (hp : s.par.wf = true) (hr : s.RegsFit) (hi : s.ctl = .idle) : s.Inv :=
  ⟨hp, hr, fun _ hb => nomatch hi.symm.trans hb⟩

theorem State.RegsFit.writeReg {s : State} (h : s.RegsFit) (ρ : Reg) {v : Nat} (hv : v < 2 ^ s.width) :
    (s.writeReg ρ v).RegsFit := by
  intro τ
  rw [State.readReg_writeReg]
  split
  · exact hv
  · exact h τ

/-- A snapshot reads the registers and nothing else. -/
theorem State.snapshotFor_congr {s t : State} (h : t.x = s.x) (cw : Word) : t.snapshotFor cw = s.snapshotFor cw := by
  simp only [State.snapshotFor, State.readReg_congr h]

/-- The progress of the running command fits the parameters, the generator and the counters, and nothing else. -/
theorem State.ProgressFits.congr {s t : State} {r : Running} (h : s.ProgressFits r) (hpar : t.par = s.par)
    (hrng : t.rng = s.rng) (htry : t.trycnt = s.trycnt) (hrnd : t.rndcnt = s.rndcnt) : t.ProgressFits r := by
  simpa only [State.ProgressFits, State.width, hpar, hrng, htry, hrnd] using h

/-- `t` is `s` in all that the invariant reads, but that DONE may have been cleared. -/
structure Undisturbed (s t : State) : Prop where
  par : t.par = s.par := by rfl
  x : t.x = s.x := by rfl
  cmd : t.cmd = s.cmd := by rfl
  err : t.status.err = s.status.err := by rfl
  done : s.status.done = false → t.status.done = false := by exact id
  rng : t.rng = s.rng := by rfl
  trycnt : t.trycnt = s.trycnt := by rfl
  rndcnt : t.rndcnt = s.rndcnt := by rfl

theorem Undisturbed.regsFit {s t : State} (u : Undisturbed s t) (h : s.RegsFit) : t.RegsFit := by
  intro ρ
  rw [State.readReg_congr u.x, State.width, u.par]
  exact h ρ

theorem Undisturbed.busyInv {s t : State} {r : Running} (u : Undisturbed s t) (h : s.BusyInv r) : t.BusyInv r where
  not_done := u.done h.not_done
  err_ok := u.err.trans h.err_ok
  cmd_running := u.cmd.trans h.cmd_running
  snapshot_current := h.snapshot_current.trans (State.snapshotFor_congr u.x _).symm
  progress_fits := h.progress_fits.congr u.par u.rng u.trycnt u.rndcnt

/-- What does not reach the controller keeps the invariant. -/
theorem State.Inv.of_undisturbed {s t : State} (h : s.Inv) (u : Undisturbed s t) (hctl : t.ctl = s.ctl) : t.Inv where
  params_legal := u.par ▸ h.params_legal
  regs_fit := u.regsFit h.regs_fit
  busy_inv r hb := u.busyInv (h.busy_inv r (hctl ▸ hb))

/-! The reset. -/

theorem State.inv_resetOn {p : Config.Params} (e : Env) (hp : p.wf = true) : (State.resetOn p e).Inv := by
  refine .of_idle hp (fun ρ => ?_) rfl
  rw [show (State.resetOn p e).readReg ρ = 0 from State.readReg_doReset (State.resetOn p e) ρ]
  exact Nat.two_pow_pos _

theorem State.Inv.doReset {s : State} (h : s.Inv) : s.doReset.Inv := State.inv_resetOn s.env h.params_legal

/-! The host accesses. -/

theorem State.Inv.answer {s : State} (h : s.Inv) (v : Resp) : (s.answer v).Inv := h.of_undisturbed {} rfl

theorem State.Inv.setBerr {s : State} (h : s.Inv) : s.setBerr.Inv := h.of_undisturbed {} rfl

theorem State.Inv.setOvr {s : State} (h : s.Inv) : s.setOvr.Inv := h.of_undisturbed {} rfl

theorem State.Inv.withEvents {s : State} (h : s.Inv) (es : List Event) : (s.withEvents es).Inv :=
  h.of_undisturbed {} rfl

theorem State.undisturbed_requestAbort (s : State) : Undisturbed s s.requestAbort := by
  unfold State.requestAbort
  split <;> exact {}

/-- An abort request changes nothing in the latch that the invariant reads. -/
theorem State.Inv.requestAbort {s : State} (h : s.Inv) : s.requestAbort.Inv := by
  cases hc : s.ctl with
  | idle => exact h.of_undisturbed s.undisturbed_requestAbort ((State.requestAbort_ctl_idle hc).trans hc.symm)
  | busy r =>
    obtain ⟨hdone, herr, hcmd, hsnap, hfit⟩ := s.undisturbed_requestAbort.busyInv (h.busy_inv r hc)
    refine ⟨by simpa using h.params_legal, s.undisturbed_requestAbort.regsFit h.regs_fit, fun r' hb => ?_⟩
    cases (State.requestAbort_ctl_busy hc).symm.trans hb
    exact ⟨hdone, herr, hcmd, hsnap, hfit⟩

/-- What acceptance latches is what the registers hold, and the counters of the command start at 0 (60_exceptions.md
R201). -/
theorem State.Inv.accept {s : State} (h : s.Inv) (cw : Word) : (s.accept cw).Inv where
  params_legal := h.params_legal
  regs_fit := h.regs_fit
  busy_inv r hb := by
    cases hb
    exact ⟨rfl, rfl, rfl, rfl, fun hr => if_pos hr, fun ht => if_pos ht⟩

theorem State.Inv.writeCtrl {s : State} (h : s.Inv) (v : Word) : (s.writeCtrl v).Inv := by
  have hstored : ({ s with ctrl := { ie := v.getLsbD 0, sentinel := v.extractLsb' 8 8 } } : State).Inv :=
    h.of_undisturbed {} rfl
  unfold State.writeCtrl
  split
  · exact h.doReset
  · dsimp only
    split
    · exact hstored.requestAbort
    · exact hstored

theorem State.Inv.writeCmd {s : State} (h : s.Inv) (v : Word) : (s.writeCmd v).Inv := by
  unfold State.writeCmd
  split
  · exact h.setOvr
  · exact h.accept v

theorem State.Inv.writeControl {s : State} (h : s.Inv) (off : Nat) (v : Word) : (s.writeControl off v).Inv := by
  unfold State.writeControl
  split
  · exact h.writeCtrl v
  · exact h.of_undisturbed { done := fun hd => by simp [hd] } rfl
  · exact h.of_undisturbed {} rfl
  · exact h.writeCmd v
  · exact h.of_undisturbed {} rfl
  · exact h

/-- A register is written by the host only while Idle, a word at a time (20_memory.md R53, R60). -/
theorem State.Inv.writeOperand {s : State} (h : s.Inv) (k : Reg) {j : Nat} (hj : j < s.par.words) (v : Word) :
    (s.writeOperand k j v).Inv := by
  unfold State.writeOperand
  split
  · exact h.setOvr
  · next hb =>
    have hidle : s.ctl = .idle := by
      cases hc : s.ctl with
      | idle => rfl
      | busy r => exact absurd (State.isBusy_of_busy hc) hb
    exact .of_idle h.params_legal (h.regs_fit.writeReg k (setWordAt_lt _ _ _ v hj (h.regs_fit k))) hidle

theorem State.Inv.readOperand {s : State} (h : s.Inv) (k : Reg) (j : Nat) : (s.readOperand k j).Inv := by
  unfold State.readOperand
  split
  · exact h.of_undisturbed {} rfl
  · exact h.answer _

theorem State.Inv.hostAccess {s : State} (h : s.Inv) (a : Access) : (s.hostAccess a).Inv := by
  cases a with
  | read addr size =>
    obtain ⟨_, e⟩ | ⟨_, _, _, e⟩ | ⟨_, _, _, _, _, e⟩ | ⟨k, j, _, _, _, e⟩ := s.read_cases addr size <;> rw [e]
    · exact h.answer _
    · exact h.setBerr.answer _
    · exact h.answer _
    · exact h.readOperand k j
  | write addr size v =>
    obtain ⟨_, e⟩ | ⟨_, _, _, e⟩ | ⟨off, _, _, _, _, e⟩ | ⟨k, j, hj, _, _, e⟩ := s.write_cases addr size v <;> rw [e]
    · exact h.answer _
    · exact h.setBerr.answer _
    · exact (h.writeControl off v).answer _
    · exact (h.writeOperand k hj v).answer _

/-! The micro-steps. -/

theorem State.Inv.raise {s : State} (h : s.Inv) (e : ErrCode) : (s.raise e).Inv := .of_idle h.params_legal h.regs_fit rfl

/-- The running command goes on to a progress that fits: its latch stays current, and it has written no register and no
STATUS bit. -/
theorem State.BusyInv.goesOn {s : State} {r : Running} (h : s.BusyInv r) {p : Progress} {g : Rng} {tries rounds : Word}
    (fits : (s.withDraws g tries rounds).ProgressFits { r with progress := p }) :
    ((s.withDraws g tries rounds).setProgress r p).BusyInv { r with progress := p } where
  not_done := h.not_done
  err_ok := h.err_ok
  cmd_running := h.cmd_running
  snapshot_current := h.snapshot_current
  progress_fits := fits.congr rfl rfl rfl rfl

/-- Whatever the running command does keeps the invariant. -/
theorem CommandStep.inv {s t : State} {r : Running} {i : Instr} (h : CommandStep s r i t) (hx : s.Executing r i) :
    t.Inv := by
  have hp := hx.inv.params_legal
  have hr := hx.inv.regs_fit
  cases h with
  | raised => exact hx.inv.raise _
  | committed => exact .of_idle hp hr rfl
  | compared => exact .of_idle hp hr rfl
  | wroteReg _ fits => exact .of_idle hp (hr.writeReg _ (fits hx)) rfl
  | wroteTwo fits => exact .of_idle hp ((hr.writeReg _ (fits hx).1).writeReg _ (fits hx).2) rfl
  | verdict => exact .of_idle hp (hr.writeReg _ (hx.inv.bool_lt _)) rfl
  | payload fits => exact .of_idle hp (hr.writeReg _ (fits hx)) rfl
  | goesOn _ fits =>
    refine ⟨hp, hr, ?_⟩
    rintro _ ⟨⟩
    exact hx.busyInv.goesOn (fits hx)

theorem microStep_inv {s t : State} (h : s.Inv) (ht : microStep s = .next t) : t.Inv := by
  obtain ⟨_, e⟩ | ⟨_, _, _, e⟩ | ⟨_, _, _, _, _, e⟩ | ⟨r, i, hb, _, hd, e⟩ := microStep_cases s <;> rw [e] at ht
  · cases ht
    exact h
  · cases ht
    exact h.raise _
  · cases ht
    exact h.raise _
  · exact (commandStep_of_exec hb ht).inv ⟨h, hb, hd⟩

/-- Settles O8, from the cases of a step: a host access, a micro-step and a reset each keep the invariant. -/
theorem everyStepKeepsTheInvariant : Obligations.EveryStepKeepsTheInvariant := by
  intro s t h ht
  obtain ⟨_, e⟩ | ⟨a, es, _, e⟩ | ⟨es, _, e⟩ | ⟨es, _, e⟩ := step_cases s <;> rw [e] at ht
  · exact microStep_inv h ht
  · cases ht
    exact (h.withEvents es).hostAccess a
  · exact microStep_inv (h.withEvents es) ht
  · cases ht
    exact (h.withEvents es).doReset

/-- Settles O9: a reset leaves the controller Idle and every register 0. -/
theorem resetMeetsTheInvariant : Obligations.ResetMeetsTheInvariant :=
  ⟨fun _ e hp => State.inv_resetOn e hp, State.inv_resetOn _ (by decide)⟩

end Sys2Proof.Machine
end

section
/-! PROOF. The control page as the host writes it (10_state.md R26, R29), the values after a reset (R42), and the interrupt
line (R41). -/

namespace Sys2Proof.Machine

/-! A host write of a word of the control page. -/

theorem State.hostWriteAt_control (s : State) {off : Nat} (v : Word) (h : off < 0x1000) (h4 : off % 4 = 0) :
    s.hostWriteAt off v = (s.writeControl off v).answer .written := s.hostAccess_write_control off v h h4

theorem State.hostWriteAt_ctrl (s : State) (v : Word) : s.hostWriteAt 0x008 v = (s.writeCtrl v).answer .written :=
  s.hostWriteAt_control v (by decide) (by decide)

theorem State.hostWriteAt_status (s : State) (v : Word) :
    s.hostWriteAt 0x00C v = ({ s with status := s.status.clearWritten v } : State).answer .written :=
  s.hostWriteAt_control v (by decide) (by decide)

theorem State.hostWriteAt_cmd_idle {s : State} (h : s.ctl = .idle) (v : Word) :
    s.hostWriteAt 0x014 v = (s.accept v).answer .written := by
  rw [s.hostWriteAt_control v (by decide) (by decide)]
  simp [State.writeControl, State.writeCmd, State.isBusy_of_idle h]

/-! A write of CTRL (10_state.md R26). -/

/-- CTRL as a written word stores it. -/
def Ctrl.ofWord (v : Word) : Ctrl := { ie := v.getLsbD 0, sentinel := v.extractLsb' 8 8 }

theorem State.writeCtrl_srst (s : State) {v : Word} (h : v.getLsbD 2 = true) : s.writeCtrl v = s.doReset := by
  simp only [State.writeCtrl, h, if_true]

/-- The controller after the ABORT bit of a CTRL write has acted (60_exceptions.md R208). -/
def Ctl.orAbort : Ctl → Bool → Ctl
  | .idle, _ => .idle
  | .busy r, b => .busy { r with abortReq := r.abortReq || b }

@[simp] theorem Ctl.orAbort_false (c : Ctl) : c.orAbort false = c := by
  cases c <;> simp [Ctl.orAbort]

theorem State.requestAbort_eq (s : State) : s.requestAbort = { s with ctl := s.ctl.orAbort true } := by
  unfold State.requestAbort
  split
  · next hc =>
    rw [hc, Ctl.orAbort, ← hc]
  · next r hc => simp [hc, Ctl.orAbort]

/-- Without SRST a CTRL write stores CTRL and may request an abort; it does nothing else. -/
theorem State.writeCtrl_not_srst (s : State) {v : Word} (h : v.getLsbD 2 = false) :
    s.writeCtrl v = { s with ctrl := Ctrl.ofWord v, ctl := s.ctl.orAbort (v.getLsbD 1) } := by
  simp only [State.writeCtrl, h, State.requestAbort_eq, Ctrl.ofWord]
  cases v.getLsbD 1 <;> simp

/-- IE and SENTINEL read back as written, every other bit as 0. -/
theorem State.ctrlWord_of_ofWord {s : State} {v : Word} (h : s.ctrl = Ctrl.ofWord v) :
    s.ctrlWord = v &&& 0x0000FF01#32 := by
  apply BitVec.eq_of_getLsbD_eq
  intro b hb
  rw [State.getLsbD_ctrlWord, h, BitVec.getLsbD_and, Ctrl.ofWord]
  interval_cases b <;> simp

/-- Settles O28, from what a CTRL write without SRST stores. -/
theorem ctrlWriteReadsBack : Obligations.CtrlWriteReadsBack := by
  intro s v h
  rw [s.hostWriteAt_ctrl v, s.writeCtrl_not_srst h]
  refine ⟨_, rfl, State.ctrlWord_of_ofWord rfl, fun r hr => ?_, rfl⟩
  simp [hr, Ctl.orAbort]

/-- Settles O26, from the write-1-to-clear of STATUS. -/
theorem statusWriteClearsOnlyItsBits : Obligations.StatusWriteClearsOnlyItsBits := by
  intro s v
  rw [s.hostWriteAt_status v]
  exact ⟨_, rfl, rfl, rfl, rfl, rfl⟩

/-! The values after a reset (10_state.md R42). -/

/-- CFG of a legal device (10_state.md R25). -/
theorem State.toNat_cfgWord {s : State} (h : s.par.wf = true) :
    s.cfgWord.toNat = 0x01 * 2 ^ 24 + 16 * 2 ^ 16 + s.width / 32 := by
  simp only [Config.Params.wf, Bool.and_eq_true, decide_eq_true_eq] at h
  have hw : s.par.words < 2 ^ 16 := by omega
  have hcfg : s.cfgWord.toNat = (0x0110#16 ++ BitVec.ofNat 16 s.par.words).toNat := rfl
  rw [hcfg, BitVec.toNat_append, ← Nat.shiftLeft_add_eq_or_of_lt (BitVec.isLt _), BitVec.toNat_ofNat s.par.words,
    Nat.mod_eq_of_lt hw, State.width, Config.Params.width, Nat.mul_div_cancel_left _ (by decide)]
  rfl

/-- The reset state of a legal device has the value of R42 everywhere. -/
theorem State.atReset_resetOn {p : Config.Params} (e : Env) (hp : p.wf = true) : AtReset (State.resetOn p e) where
  regs := State.readReg_doReset (State.resetOn p e)
  id := rfl
  cfg := State.toNat_cfgWord hp
  ctrl := show (0#16 ++ 0xFF#8 ++ 0#7 ++ BitVec.ofBool false : Word) = 0x0000FF00#32 by decide
  ie := rfl
  sentinel := rfl
  status := show (State.resetOn Config.defaultParams Env.initial).statusWord = 0#32 by decide
  arg := rfl
  cmd := rfl
  reslen := rfl
  maxtry := rfl
  trycnt := rfl
  rndcnt := rfl
  rngstat := show (0#31 ++ BitVec.ofBool false : Word) = 0#32 by decide
  rng := rfl
  ctl := rfl
  abortReq := rfl
  irq := rfl

/-- Settles O10: each of the three resets is `State.resetOn` with the parameters kept. -/
theorem everyResetLeavesTheResetValues : Obligations.EveryResetLeavesTheResetValues := by
  refine ⟨State.atReset_resetOn _ (by decide), fun s es hp he => ?_, fun s v hp hv => ?_⟩
  · have hstep : step s = .next (s.withEvents es).doReset := by
      simp only [step, he, stepEvent]
    exact ⟨_, hstep, State.atReset_resetOn _ hp, rfl⟩
  · rw [s.hostWriteAt_ctrl v, s.writeCtrl_srst hv]
    exact ⟨State.atReset_resetOn _ hp, rfl⟩

/-! The interrupt line (10_state.md R41, 60_exceptions.md R211). -/

/-- A raise ends the command and writes nothing of the host's side (60_exceptions.md R203). -/
theorem State.ended_raise (s : State) (e : ErrCode) : Ended s (s.raise e) e :=
  ⟨rfl, rfl, rfl, ⟨rfl, rfl, rfl, rfl, rfl, rfl, rfl, rfl⟩⟩

/-- A micro-step that leaves a Busy controller Idle has ended its command (60_exceptions.md R203, R204). -/
theorem microStep_ended {s t : State} {r : Running} (hb : s.ctl = .busy r) (h : microStep s = .next t)
    (hi : t.ctl = .idle) : Ended s t t.status.err := by
  obtain ⟨hc, _⟩ | ⟨_, _, _, e⟩ | ⟨_, _, _, _, _, e⟩ | ⟨_, i, hb', _, _, e⟩ := microStep_cases s
  · cases hb.symm.trans hc
  · cases e.symm.trans h
    exact s.ended_raise _
  · cases e.symm.trans h
    exact s.ended_raise _
  · exact (commandStep_of_exec hb' (e.symm.trans h)).ended hi

/-- Settles O19: a completion sets DONE and keeps CTRL, and each host write is read off the control page. -/
theorem irqFollowsCompletionAndEnable : Obligations.IrqFollowsCompletionAndEnable := by
  refine ⟨fun s t r hb h hi => ?_, fun s cw h => ?_, fun s v h => ?_, fun s v h => ?_⟩
  · obtain ⟨-, hdone, -, hhost⟩ := microStep_ended hb h hi
    simp [State.irq, hdone, hhost.ctrl]
  · simp [State.hostWriteAt_cmd_idle h, State.irq]
  · simp [s.hostWriteAt_status v, State.irq, h]
  · rw [s.hostWriteAt_ctrl v, s.writeCtrl_not_srst h]
    exact ⟨rfl, rfl⟩

end Sys2Proof.Machine
end

section
/-! PROOF. The host's side of the window: one rule for each kind of access (20_memory.md R52, R53, R56, R51), and what
follows for bus errors, for the writes that store or are ignored, and for a running command (R60, R65). -/

namespace Sys2Proof.Machine

/-! The next event (log 3). -/

/-- An Idle controller waits (70_reset_and_hazards.md R233). -/
theorem microStep_idle {s : State} (h : s.ctl = .idle) : microStep s = .next s := by
  simp only [microStep, h]

theorem step_of_no_event {s : State} (h : s.env.events = []) : step s = microStep s := by
  simp only [step, h]

theorem step_of_event {s : State} {e : Event} {es : List Event} (h : s.env.events = e :: es) :
    step s = stepEvent e (s.withEvents es) := by
  simp only [step, h]

/-- Settles O6: a step is its next event, and a micro-step of an Idle controller does nothing. -/
theorem stepTakesOneAccessAndIdleWaits : Obligations.StepTakesOneAccessAndIdleWaits := by
  refine ⟨fun s a es he => step_of_event he, fun s hi he => ?_, fun s es hi he => ?_⟩
  · exact (step_of_no_event he).trans (microStep_idle hi)
  · exact (step_of_event he).trans (microStep_idle hi)

/-! The accesses that reach no register. -/

section
variable (s : State) {addr off size : Nat}

/-- An access of the window that is not an aligned 32-bit one, read and write alike (20_memory.md R56). -/
theorem State.hostAccess_misaligned (hoff : off < s.span) (hbad : off % 4 ≠ 0 ∨ size ≠ 4) {v : Word} {a : Access}
    (ha : a = .read (s.par.base + off) size ∨ a = .write (s.par.base + off) size v) :
    s.hostAccess a = s.setBerr.answer .busError := by
  rcases ha with rfl | rfl
  · simp only [State.hostAccess, s.offsetOf_base_add off hoff, State.memRead, if_pos hbad]
  · simp only [State.hostAccess, s.offsetOf_base_add off hoff, State.memWrite, if_pos hbad]

theorem State.hostAccess_read_outside (h : s.offsetOf addr = none) :
    s.hostAccess (.read addr size) = s.answer .notDecoded := by
  simp only [State.hostAccess, h]

theorem State.hostAccess_write_outside (h : s.offsetOf addr = none) (v : Word) :
    s.hostAccess (.write addr size v) = s.answer .notDecoded := by
  simp only [State.hostAccess, h]

end

/-- Settles O25, from the rules of the accesses that reach no register; IRQ does not depend on BERR. -/
theorem busErrorOnlySetsBerr : Obligations.BusErrorOnlySetsBerr := by
  refine ⟨fun s off size v hoff hbad => ⟨fun a ha => ?_, ?_⟩, fun s addr size v hsize hout => ?_⟩
  · rw [s.hostAccess_misaligned hoff hbad ha]
    exact ⟨rfl, rfl⟩
  · rw [s.hostAccess_misaligned hoff hbad (v := v) (.inl rfl)]
    rfl
  · have hnone := s.offsetOf_outside addr size hsize hout
    exact ⟨s.hostAccess_read_outside hnone, s.hostAccess_write_outside hnone v⟩

/-! The writes of the control page that act on no command. -/

/-- A read-only register and a reserved offset ignore a write (20_memory.md R53, R57). -/
theorem State.writeControl_ignored (s : State) {off : Nat} (v : Word)
    (h : off ∉ [0x008, 0x00C, 0x010, 0x014, 0x01C]) : s.writeControl off v = s := by
  unfold State.writeControl
  split
  case h_6 => rfl
  all_goals simp at h

/-- Settles O27: each is the rule of a control-page write at its offset. -/
theorem otherControlWritesStoreOrAreIgnored : Obligations.OtherControlWritesStoreOrAreIgnored := by
  refine ⟨fun s v => ⟨?_, ?_⟩, fun s off v h4 hoff hno => ?_⟩
  · exact s.hostWriteAt_control v (by decide) (by decide)
  · exact s.hostWriteAt_control v (by decide) (by decide)
  · rw [s.hostWriteAt_control v hoff h4, s.writeControl_ignored v hno]
    rfl

/-! The operand registers as the host writes them. -/

/-- WORDS is W / 32 (00_scope.md R7). -/
theorem State.width_div_32 (s : State) : s.width / 32 = s.par.words :=
  Nat.mul_div_cancel_left s.par.words (by decide)

theorem State.hostWriteAt_operand (s : State) (k : Reg) {j : Nat} (v : Word) (hj : j < s.width / 32) :
    s.hostWriteAt (s.operandAt k j) v = (s.writeOperand k j v).answer .written :=
  s.hostAccess_write_operand k j v (s.width_div_32 ▸ hj)

theorem State.writeOperand_idle {s : State} (h : s.isBusy = false) (k : Reg) (j : Nat) (v : Word) :
    s.writeOperand k j v = s.writeReg k (setWordAt (s.readReg k) j v) := by
  simp [State.writeOperand, h]

theorem State.writeOperand_busy {s : State} (h : s.isBusy = true) (k : Reg) (j : Nat) (v : Word) :
    s.writeOperand k j v = s.setOvr := by
  simp [State.writeOperand, h]

/-- Settles O21: the write is a register write of the value with one word replaced, and the words of that value are
known. -/
theorem operandWriteReplacesOneWord : Obligations.OperandWriteReplacesOneWord := by
  intro s k j v hidle hj hfit
  rw [s.hostWriteAt_operand k v hj, State.writeOperand_idle (State.isBusy_of_idle hidle)]
  have hk : ((s.writeReg k (setWordAt (s.readReg k) j v)).answer .written).readReg k = setWordAt (s.readReg k) j v :=
    (s.readReg_writeReg k k _).trans (if_pos rfl)
  refine ⟨_, rfl, ?_, ?_, fun j' hj' => ?_, fun ρ hρ => ?_, rfl⟩
  · rw [hk]
    exact setWordAt_lt _ j s.par.words v (s.width_div_32 ▸ hj) hfit
  · rw [hk, ← toNat_wordAt, wordAt_setWordAt_same]
  · rw [hk, ← toNat_wordAt, ← toNat_wordAt, wordAt_setWordAt_other _ _ _ _ hj']
  · exact (s.readReg_writeReg k ρ _).trans (if_neg hρ)

/-! A running command and the host (20_memory.md R60, R65). -/

/-- `t` is `s` in all that a running command reads or writes, and in the events to come. -/
structure CommandUntouched (s t : State) : Prop where
  ctl : t.ctl = s.ctl := by rfl
  results : ResultsKept s t [] := by exact ⟨fun _ _ => rfl, rfl, rfl, rfl, rfl, rfl, rfl, rfl⟩
  rng : t.rng = s.rng := by rfl
  err : t.status.err = s.status.err := by rfl
  cmd : t.cmd = s.cmd := by rfl
  par : t.par = s.par := by rfl
  events : t.env.events = s.env.events := by rfl

/-- An answer on the bus does not reach the command. -/
theorem CommandUntouched.answer {s t : State} (h : CommandUntouched s t) (v : Resp) : CommandUntouched s (t.answer v) :=
  { h with results := { h.results with } }

/-- A decoded address is the window offset from NTA_BASE (20_memory.md R51). -/
theorem State.eq_base_add_of_offsetOf {s : State} {addr off : Nat} (h : s.offsetOf addr = some off) :
    addr = s.par.base + off := by
  unfold State.offsetOf at h
  split at h
  · cases h
    omega
  · cases h

section
variable {s : State} {r : Running}

theorem commandUntouched_readOperand (k : Reg) (j : Nat) : CommandUntouched s (s.readOperand k j) := by
  unfold State.readOperand
  split <;> exact {}

/-- Of the control page, only CTRL's two action bits reach a running command. -/
theorem commandUntouched_writeControl (hb : s.ctl = .busy r) {off : Nat} {v : Word}
    (hctrl : off = 0x008 → v.getLsbD 1 = false ∧ v.getLsbD 2 = false) :
    CommandUntouched s (s.writeControl off v) := by
  unfold State.writeControl
  split
  · obtain ⟨habort, hsrst⟩ := hctrl rfl
    rw [s.writeCtrl_not_srst hsrst, habort, Ctl.orAbort_false]
    exact {}
  · exact {}
  · exact {}
  · simp only [State.writeCmd, State.isBusy_of_busy hb, if_true]
    exact {}
  · exact {}
  · exact {}

theorem commandUntouched_hostAccess (hb : s.ctl = .busy r) {a : Access}
    (hctrl : ∀ v : Word, a = .write (s.par.base + 0x008) 4 v → v.getLsbD 1 = false ∧ v.getLsbD 2 = false) :
    CommandUntouched s (s.hostAccess a) := by
  cases a with
  | read addr size =>
    obtain ⟨_, e⟩ | ⟨_, _, _, e⟩ | ⟨_, _, _, _, _, e⟩ | ⟨k, j, _, _, _, e⟩ := s.read_cases addr size <;> rw [e]
    · exact {}
    · exact {}
    · exact {}
    · exact commandUntouched_readOperand k j
  | write addr size v =>
    obtain ⟨_, e⟩ | ⟨_, _, _, e⟩ | ⟨off, hoff, _, hsize, _, e⟩ | ⟨k, j, _, _, _, e⟩ := s.write_cases addr size v
      <;> rw [e]
    · exact {}
    · exact {}
    · refine (commandUntouched_writeControl hb fun h8 => hctrl v ?_).answer _
      rw [State.eq_base_add_of_offsetOf hoff, hsize, h8]
    · rw [State.writeOperand_busy (State.isBusy_of_busy hb)]
      exact {}

end

/-- Settles O29, from the cases of a host access. -/
theorem runningCommandIsShieldedFromTheHost : Obligations.RunningCommandIsShieldedFromTheHost := by
  intro s r a hb hctrl
  obtain ⟨hctl, hresults, hrng, herr, hcmd, hpar, hevents⟩ := commandUntouched_hostAccess hb hctrl
  exact ⟨_, rfl, hctl, hresults, hrng, herr, hcmd, hpar, hevents⟩

end Sys2Proof.Machine
end

section
/-! PROOF. What a host read answers (20_memory.md R52): the words of the control page bit by bit (10_state.md R25, R26,
R29, R38), and the words of the operand registers (R54, R60). -/

namespace Sys2Proof.Machine

variable (s : State)

/-! A host read of a word. -/

theorem State.hostReadAt_control {off : Nat} (h : off < 0x1000) (h4 : off % 4 = 0) :
    s.hostReadAt off = s.answer (.data (s.controlWord off)) := s.hostAccess_read_control off h h4

/-- A read of the control page answers with the register there (10_state.md R23). -/
theorem State.resp_hostReadAt_control {off : Nat} (h : off < 0x1000) (h4 : off % 4 = 0) :
    (s.hostReadAt off).env.resp = .data (s.controlWord off) := by
  rw [s.hostReadAt_control h h4, State.answer_env]

theorem State.hostReadAt_operand (k : Reg) {j : Nat} (hj : j < s.width / 32) :
    s.hostReadAt (s.operandAt k j) = s.readOperand k j := s.hostAccess_read_operand k j (s.width_div_32 ▸ hj)

theorem State.readOperand_idle {s : State} (h : s.isBusy = false) (k : Reg) (j : Nat) :
    s.readOperand k j = s.answer (.data (wordAt (s.readReg k) j)) := by
  simp [State.readOperand, h]

/-- Idle or Busy, a read of an operand register answers with some word and touches only the bus (20_memory.md R52,
R60). -/
theorem State.readOperand_answers (k : Reg) (j : Nat) :
    ∃ w : Word, (s.readOperand k j).env.resp = .data w ∧ ({ s.readOperand k j with env := s.env } : State) = s := by
  unfold State.readOperand
  split <;> exact ⟨_, rfl, rfl⟩

/-- An admitted read changes nothing but the bus (20_memory.md R52). -/
theorem State.hostReadAt_keeps {off : Nat} (hoff : off < s.span) (h4 : off % 4 = 0) :
    ({ s.hostReadAt off with env := s.env } : State) = s := by
  obtain ⟨hp, -⟩ | ⟨k, j, hj, rfl, -⟩ := s.placeOf_cases off h4 hoff
  · rw [s.hostReadAt_control hp h4]
    rfl
  · have hread : s.hostReadAt (0x1000 + k.val * s.bytes + 4 * j) = s.readOperand k j :=
      s.hostAccess_read_operand k j hj
    obtain ⟨_, -, hkeeps⟩ := s.readOperand_answers k j
    rw [hread, hkeeps]

/-! The words of the control page. -/

/-- A reserved offset of the control page reads as 0 (20_memory.md R57). -/
theorem State.controlWord_reserved {off : Nat} (h : 0x02C ≤ off) : s.controlWord off = 0#32 := by
  unfold State.controlWord
  split
  case h_12 => rfl
  all_goals omega

/-- The three fields of CFG (10_state.md R25). -/
theorem State.cfgWord_fields {s : State} (h : s.par.wf = true) :
    (s.cfgWord.extractLsb' 0 16).toNat = s.width / 32 ∧ (s.cfgWord.extractLsb' 16 8).toNat = 16
      ∧ (s.cfgWord.extractLsb' 24 8).toNat = 0x01 := by
  have hwords : s.width / 32 < 2 ^ 16 := by
    simp only [Config.Params.wf, Bool.and_eq_true, decide_eq_true_eq] at h
    rw [s.width_div_32]
    omega
  simp only [BitVec.extractLsb'_toNat, State.toNat_cfgWord h, Nat.shiftRight_eq_div_pow]
  omega

theorem State.ctrlWordBits : CtrlWordBits s s.ctrlWord where
  ie := by rw [s.getLsbD_ctrlWord, if_pos rfl]
  sentinel := by
    apply BitVec.eq_of_getLsbD_eq
    intro i hi
    simp (disch := omega) only [BitVec.getLsbD_extractLsb', s.getLsbD_ctrlWord, if_neg, if_pos, Nat.add_sub_cancel_left]
    simp [hi]
  zero b hb := by
    obtain ⟨h1, h8⟩ | h16 := hb
    · simp (disch := omega) only [s.getLsbD_ctrlWord, if_neg, if_pos]
    · simp (disch := omega) only [s.getLsbD_ctrlWord, if_neg]

/-- STATUS[7:4] is the code of the error (10_state.md R29, 60_exceptions.md R202). -/
theorem State.statusWord_err : s.statusWord.extractLsb' 4 4 = s.status.err.code := by
  apply BitVec.eq_of_getLsbD_eq
  intro i hi
  simp (disch := omega) only [BitVec.getLsbD_extractLsb', s.getLsbD_statusWord, if_neg, if_pos, Nat.add_sub_cancel_left]
  simp [hi]

/-- BUSY, negatively: no command is latched exactly while Idle. -/
theorem State.isBusy_iff_ne_idle {s : State} : s.isBusy = true ↔ s.ctl ≠ .idle := by
  cases h : s.ctl <;> simp [State.isBusy, h]

theorem State.statusWordBits : StatusWordBits s s.statusWord where
  busy := by rw [s.getLsbD_statusWord, if_pos rfl, State.isBusy_iff_ne_idle]
  done := s.getLsbD_statusWord 1
  err := by
    rw [s.statusWord_err]
    simp only [List.forall_mem_cons]
    simp +contextual [ErrCode.code]
  res := s.getLsbD_statusWord 8
  eq := s.getLsbD_statusWord 9
  lt := s.getLsbD_statusWord 10
  sm := s.getLsbD_statusWord 11
  ovr := s.getLsbD_statusWord 12
  berr := s.getLsbD_statusWord 13
  reserved b hb := by
    obtain rfl | rfl | hb := hb
    · exact s.getLsbD_statusWord 2
    · exact s.getLsbD_statusWord 3
    · simp (disch := omega) only [s.getLsbD_statusWord, if_neg]

theorem State.rngstatWord_eq : s.rngstatWord = if s.rng = .unseeded then 0#32 else 1#32 := by
  cases h : s.rng <;> simp [State.rngstatWord, Rng.isSeeded, h]

/-- Settles O20, from the rule of a control-page read with the words of the control page, and the rule of an operand
read. -/
theorem hostReadsAnswerWhatTheWindowHolds : Obligations.HostReadsAnswerWhatTheWindowHolds := by
  refine ⟨fun s off size hoff hbad => ?_, fun s p hp => ?_, fun s h => ?_, fun s => ?_, fun s => ?_, fun s => ?_,
    fun s off h4 hlo hhi => ?_, fun s k j hj hidle => ?_, fun s k j hj _ => ?_, fun s off hoff h4 => ?_⟩
  · rw [s.hostAccess_misaligned hoff hbad (v := 0#32) (.inl rfl)]
    rfl
  · revert p
    simp [s.resp_hostReadAt_control, State.controlWord, Config.idValue]
  · exact ⟨_, s.resp_hostReadAt_control (by decide) (by decide), State.cfgWord_fields h⟩
  · exact ⟨_, s.resp_hostReadAt_control (by decide) (by decide), s.ctrlWordBits⟩
  · exact ⟨_, s.resp_hostReadAt_control (by decide) (by decide), s.statusWordBits⟩
  · rw [s.resp_hostReadAt_control (off := 0x028) (by decide) (by decide), ← s.rngstatWord_eq]
    rfl
  · rw [s.resp_hostReadAt_control hhi h4, s.controlWord_reserved hlo]
  · rw [s.hostReadAt_operand k hj, State.readOperand_idle hidle]
    exact ⟨_, rfl, toNat_wordAt _ j⟩
  · obtain ⟨w, hw, -⟩ := s.readOperand_answers k j
    exact ⟨w, by rw [s.hostReadAt_operand k hj, hw]⟩
  · exact s.hostReadAt_keeps hoff h4

end Sys2Proof.Machine
end

section
/-! PROOF. The decoder against the encoder (30_encoding.md R71 to R76): `decode` answers a command exactly for the words
that carry its opcode and its own register fields (`decode_eq_ok_iff`). -/

namespace Sys2Proof

/-! The words that decode to a command. -/

/-- `cw` has the opcode of `i` and, in each register field that `i` uses, the register of `i`; the other bits are free
(30_encoding.md R73). -/
structure Carries (cw : Word) (i : Instr) : Prop where
  op : opField cw = i.opcode
  rd : ∀ ρ ∈ i.fields.1, rdField cw = ρ
  rs1 : ∀ ρ ∈ i.fields.2.1, rs1Field cw = ρ
  rs2 : ∀ ρ ∈ i.fields.2.2.1, rs2Field cw = ρ
  rs3 : ∀ ρ ∈ i.fields.2.2.2, rs3Field cw = ρ

/-- A decoded command takes its fields from the word (30_encoding.md R71). -/
theorem carries_of_decode {cw : Word} {i : Instr} (h : decode cw = .ok i) : Carries cw i := by
  have hop := Machine.opField_of_decode h
  unfold decode at h
  split at h <;> cases h <;> exact ⟨hop, by simp [Instr.fields], by simp [Instr.fields], by simp [Instr.fields],
    by simp [Instr.fields]⟩

/-- The opcode chooses the command and the fields fill it in (30_encoding.md R75). -/
theorem decode_of_carries {cw : Word} {i : Instr} (h : Carries cw i) : decode cw = .ok i := by
  obtain ⟨hop, hrd, hrs1, hrs2, hrs3⟩ := h
  unfold decode
  rw [hop]
  cases i <;> simp_all [Instr.opcode, Instr.fields]

theorem decode_eq_ok_iff {cw : Word} {i : Instr} : decode cw = .ok i ↔ Carries cw i :=
  ⟨carries_of_decode, decode_of_carries⟩

/-- The encoder writes each used register into its field (30_encoding.md R71, R78). -/
theorem carries_encode (i : Instr) : Carries (encode i) i where
  op := opField_encode i
  rd ρ hρ := by rw [encode_eq, rdField_wordOfFields, Option.mem_def.mp hρ, toFin_fieldBits_some]
  rs1 ρ hρ := by rw [encode_eq, rs1Field_wordOfFields, Option.mem_def.mp hρ, toFin_fieldBits_some]
  rs2 ρ hρ := by rw [encode_eq, rs2Field_wordOfFields, Option.mem_def.mp hρ, toFin_fieldBits_some]
  rs3 ρ hρ := by rw [encode_eq, rs3Field_wordOfFields, Option.mem_def.mp hρ, toFin_fieldBits_some]

/-- Settles O1: an encoded command carries its own opcode and registers. -/
theorem decodeOfEncodeIsTheCommand : Obligations.DecodeOfEncodeIsTheCommand :=
  fun i => decode_of_carries (carries_encode i)

/-! The bits a command uses (30_encoding.md R73). -/

/-- A word is its opcode, its four register fields and `rsv` (30_encoding.md R71). -/
theorem wordOfFields_fields (cw : Word) :
    wordOfFields (opField cw) (BitVec.ofFin (rdField cw)) (BitVec.ofFin (rs1Field cw)) (BitVec.ofFin (rs2Field cw))
      (BitVec.ofFin (rs3Field cw)) (cw.extractLsb' 0 10) = cw := by
  simp only [wordOfFields, opField, rdField, rs1Field, rs2Field, rs3Field, BitVec.ofFin_toFin]
  repeat rw [BitVec.extractLsb'_append_extractLsb'_eq_extractLsb' (by rfl)]
  exact BitVec.extractLsb'_eq_self

theorem wordOfFields_and (op op' : BitVec 6) (a b c d a' b' c' d' : BitVec 4) (rsv rsv' : BitVec 10) :
    wordOfFields op a b c d rsv &&& wordOfFields op' a' b' c' d' rsv'
      = wordOfFields (op &&& op') (a &&& a') (b &&& b') (c &&& c') (d &&& d') (rsv &&& rsv') := by
  show op ++ a ++ b ++ c ++ d ++ rsv &&& op' ++ a' ++ b' ++ c' ++ d' ++ rsv' = _
  simp only [wordOfFields, BitVec.and_append]

theorem wordOfFields_inj {op op' : BitVec 6} {a b c d a' b' c' d' : BitVec 4} {rsv : BitVec 10} :
    wordOfFields op a b c d rsv = wordOfFields op' a' b' c' d' rsv
      ↔ op = op' ∧ a = a' ∧ b = b' ∧ c = c' ∧ d = d' := by
  refine ⟨fun h => ⟨?_, ?_, ?_, ?_, ?_⟩, by rintro ⟨rfl, rfl, rfl, rfl, rfl⟩; rfl⟩
  · simpa using congrArg opField h
  · exact BitVec.toFin_inj.mp (by simpa using congrArg rdField h)
  · exact BitVec.toFin_inj.mp (by simpa using congrArg rs1Field h)
  · exact BitVec.toFin_inj.mp (by simpa using congrArg rs2Field h)
  · exact BitVec.toFin_inj.mp (by simpa using congrArg rs3Field h)

/-- Masked to what the command uses, a field agrees with the encoding when it holds the command's register, or is not
used. -/
theorem and_fieldMask_eq_fieldBits_iff (ρ : Reg) (o : Option Reg) :
    BitVec.ofFin ρ &&& fieldMask o = fieldBits o ↔ ∀ τ ∈ o, ρ = τ := by
  cases o with
  | none => simp [fieldMask, fieldBits]
  | some τ =>
    have hmask : BitVec.ofFin ρ &&& fieldMask (some τ) = BitVec.ofFin ρ := BitVec.and_allOnes
    simp [hmask, fieldBits]

theorem and_usedMask_eq_encode_iff {cw : Word} {i : Instr} : cw &&& i.usedMask = encode i ↔ Carries cw i := by
  have hop : opField cw &&& 0x3F#6 = opField cw := BitVec.and_allOnes
  have hmask : cw &&& i.usedMask = wordOfFields (opField cw) (BitVec.ofFin (rdField cw) &&& fieldMask i.fields.1)
      (BitVec.ofFin (rs1Field cw) &&& fieldMask i.fields.2.1) (BitVec.ofFin (rs2Field cw) &&& fieldMask i.fields.2.2.1)
      (BitVec.ofFin (rs3Field cw) &&& fieldMask i.fields.2.2.2) 0#10 := by
    conv_lhs => rw [← wordOfFields_fields cw]
    rw [usedMask_eq, wordOfFields_and, hop, BitVec.and_zero]
  simp only [hmask, encode_eq, wordOfFields_inj, and_fieldMask_eq_fieldBits_iff]
  exact ⟨fun ⟨hop, hrd, hrs1, hrs2, hrs3⟩ => ⟨hop, hrd, hrs1, hrs2, hrs3⟩,
    fun ⟨hop, hrd, hrs1, hrs2, hrs3⟩ => ⟨hop, hrd, hrs1, hrs2, hrs3⟩⟩

/-- Settles O2: a word decodes to a command, and agrees with its encoding on the bits it uses, exactly when it carries
the command. -/
theorem decodeReadsExactlyTheUsedBits : Obligations.DecodeReadsExactlyTheUsedBits :=
  fun _ _ => decode_eq_ok_iff.trans and_usedMask_eq_encode_iff.symm

/-! The reserved opcodes (30_encoding.md R76). -/

theorem decode_eq_error_of_reserved {cw : Word} (h : 0x16 ≤ (opField cw).toNat) :
    decode cw = .error (.reservedOpcode (opField cw)) := by
  unfold decode
  split
  case h_23 => rfl
  all_goals omega

/-- Every opcode below 0x16 is a command's, whatever the other bits are (30_encoding.md R75, R76). -/
theorem exists_decode_of_defined {cw : Word} (h : (opField cw).toNat < 0x16) : ∃ i, decode cw = .ok i := by
  unfold decode
  generalize (opField cw).toNat = n at h
  interval_cases n <;> exact ⟨_, rfl⟩

/-- Settles O3: a reserved opcode is rejected, and a defined one is a command's. -/
theorem onlyReservedOpcodesDoNotDecode : Obligations.OnlyReservedOpcodesDoNotDecode := by
  intro cw
  refine ⟨fun ⟨d, hd⟩ => ?_, fun h => ⟨_, decode_eq_error_of_reserved h⟩⟩
  by_contra hlt
  obtain ⟨i, hi⟩ := exists_decode_of_defined (not_le.mp hlt)
  cases hd.symm.trans hi

/-- Settles O4, by running the decoder on the fifteen words. -/
theorem wordsOfTheSpecDecode : Obligations.WordsOfTheSpecDecode := by
  unfold Obligations.WordsOfTheSpecDecode
  decide

end Sys2Proof
end

section
/-! PROOF. Reserved opcodes as the controller meets them (30_encoding.md R76), and the host's lines run on the device:
an assembler line (R74, R78) and WRREG (R78, 20_memory.md R54). -/

namespace Sys2Proof.Machine

/-! A reserved opcode (30_encoding.md R76). -/

theorem microStep_of_reserved {s : State} {r : Running} {d : DecodeReject} (hb : s.ctl = .busy r)
    (ha : r.abortReq = false) (hd : decode r.cw = .error d) : microStep s = .next (s.raise .illegal) := by
  simp [microStep, hb, ha, hd]

/-- Acceptance of a reserved opcode clears no counter (60_exceptions.md R201). -/
theorem clears_of_reserved {cw : Word} (h : 0x16 ≤ (opField cw).toNat) :
    clearsRounds cw = false ∧ clearsTries cw = false := by
  have hne (op : BitVec 6) (hop : op.toNat < 0x16) : opField cw ≠ op := by
    rintro rfl
    omega
  simp [clearsRounds, clearsTries, hne]

/-- Settles O15: a CMD write while Idle is an acceptance, which clears no counter for a reserved opcode, and the
micro-step after it raises ILLEGAL. -/
theorem reservedOpcodeEndsWithIllegal : Obligations.ReservedOpcodeEndsWithIllegal := by
  refine ⟨fun s cw hidle hres => ?_, fun cw h => exists_decode_of_defined h⟩
  obtain ⟨hrounds, htries⟩ := clears_of_reserved hres
  rw [State.hostWriteAt_cmd_idle hidle]
  refine ⟨_, _, rfl, rfl, rfl, microStep_of_reserved rfl rfl (decode_eq_error_of_reserved hres),
    State.ended_raise _ _, ⟨fun _ _ => rfl, rfl, rfl, rfl, rfl, rfl, ?_, ?_⟩, rfl⟩
  · simp [htries]
  · simp [hrounds]

/-! Runs of host writes. -/

/-- A step whose next event is a host write of a whole word takes that write. -/
theorem run_hostWrite {s : State} {off : Nat} {v : Word} {es : List Event}
    (h : s.env.events = hostWrite s.par off v :: es) (n : Nat) :
    Sys2Proof.core.run (n + 1) s = Sys2Proof.core.run n ((s.withEvents es).hostWriteAt off v) := by
  have hstep : Sys2Proof.core.step s = .next ((s.withEvents es).hostWriteAt off v) := step_of_event h
  simp only [Host.Core.run, hstep]

/-! An assembler line (30_encoding.md R78). -/

theorem State.hostWriteAt_arg (s : State) (v : Word) :
    s.hostWriteAt 0x010 v = ({ s with arg := v } : State).answer .written :=
  s.hostWriteAt_control v (by decide) (by decide)

/-- The write of CMD as the last event starts its command, with ARG as it stands (60_exceptions.md R201). -/
theorem run_cmdWrite {s : State} {cw : Word} (hidle : s.ctl = .idle) (he : s.env.events = [hostWrite s.par 0x014 cw]) :
    ∃ (t : State) (r : Running), Sys2Proof.core.run 1 s = .next t ∧ t.ctl = .busy r ∧ r.cw = cw ∧ r.arg = s.arg
      ∧ t.env.events = [] := by
  rw [run_hostWrite he 0, State.hostWriteAt_cmd_idle (s := s.withEvents []) hidle]
  exact ⟨_, _, rfl, rfl, rfl, rfl, rfl⟩

/-- A command line starts its command with the ARG it writes, or with ARG as it stands where the command reads none
(30_encoding.md R78). -/
theorem run_asmEvents {s : State} {l : AsmLine} (hidle : s.ctl = .idle) (he : s.env.events = asmEvents s.par l) :
    ∃ (t : State) (r : Running), Sys2Proof.core.run (asmEvents s.par l).length s = .next t ∧ t.ctl = .busy r
      ∧ r.cw = encode l.instr ∧ r.arg = (asmArg l).getD s.arg ∧ t.env.events = [] := by
  unfold asmEvents at he ⊢
  cases hl : asmArg l with
  | none =>
    rw [hl] at he
    exact run_cmdWrite hidle he
  | some a =>
    rw [hl] at he
    have hrun := run_hostWrite he 1
    rw [State.hostWriteAt_arg] at hrun
    obtain ⟨t, r, hcmd, hstarted⟩ := run_cmdWrite (cw := encode l.instr)
      (s := ({ s.withEvents [hostWrite s.par 0x014 (encode l.instr)] with arg := a } : State).answer .written) hidle rfl
    exact ⟨t, r, hrun.trans hcmd, hstarted⟩

/-- A command reads no argument, one word, or, MAKEPRIME, two halves of one (30_encoding.md R74). -/
theorem argBounds_cases (i : Instr) :
    i.argBounds = [] ∨ i.argBounds = [2 ^ 32] ∨ i.argBounds = [2 ^ 16, 2 ^ 16] := by
  cases i <;> simp [Instr.argBounds]

/-- What the argument word of a well-formed line is (30_encoding.md R74, R78). -/
inductive ArgWord : List Nat → Option Word → Prop
  | none : ArgWord [] none
  | word {v : Nat} (h : v < 2 ^ 32) : ArgWord [v] (some (BitVec.ofNat 32 v))
  | halves {bits iters : Nat} (hb : bits < 2 ^ 16) (hi : iters < 2 ^ 16) :
      ArgWord [bits, iters] (some (primeArg bits iters))

theorem argWord_of_wf {l : AsmLine} (h : l.wf = true) : ArgWord l.args (asmArg l) := by
  obtain ⟨i, args⟩ := l
  simp only [AsmLine.wf, Bool.and_eq_true, beq_iff_eq, asmArg] at h ⊢
  obtain ⟨hlen, hfit⟩ := h
  rcases argBounds_cases i with hb | hb | hb <;> rw [hb] at hlen hfit ⊢
  · obtain rfl := List.length_eq_zero_iff.mp hlen
    exact .none
  · obtain ⟨v, rfl⟩ := List.length_eq_one_iff.mp hlen
    exact .word (by simpa using hfit)
  · obtain ⟨bits, iters, rfl⟩ := List.length_eq_two.mp hlen
    obtain ⟨hbits, hiters⟩ : bits < 2 ^ 16 ∧ iters < 2 ^ 16 := by simpa using hfit
    exact .halves hbits hiters

theorem Running.primeBits_of_primeArg {r : Running} {bits iters : Nat} (h : r.arg = primeArg bits iters)
    (hb : bits < 2 ^ 16) : r.primeBits = bits := by
  rw [Running.primeBits, h, primeArg, BitVec.extractLsb'_append_eq_right, BitVec.toNat_ofNat, Nat.mod_eq_of_lt hb]

theorem Running.primeIters_of_primeArg {r : Running} {bits iters : Nat} (h : r.arg = primeArg bits iters)
    (hi : iters < 2 ^ 16) : r.primeIters = iters := by
  rw [Running.primeIters, h, primeArg, BitVec.extractLsb'_append_eq_left, BitVec.toNat_ofNat, Nat.mod_eq_of_lt hi]

/-- Settles O23: the line's CMD write starts the encoded command, and its ARG write holds the arguments of a well-formed
line. -/
theorem asmLineStartsItsCommand : Obligations.AsmLineStartsItsCommand := by
  intro s l hwf hidle he
  obtain ⟨t, r, hrun, hctl, hcw, harg, hev⟩ := run_asmEvents hidle he
  refine ⟨t, r, hrun, hctl, by rw [hcw, decodeOfEncodeIsTheCommand], hev, ?_⟩
  have hword := argWord_of_wf hwf
  generalize l.args = args, asmArg l = a at hword harg
  cases hword with
  | none => simpa using harg
  | word hv => simpa [harg] using Nat.mod_eq_of_lt hv
  | halves hb hi =>
    simpa using And.intro (Running.primeBits_of_primeArg harg hb) (Running.primeIters_of_primeArg harg hi)

/-! WRREG (30_encoding.md R78). -/

/-- The host writes of the words `js` of `v` to `x[k]`; `wrreg` is those of all the words. -/
def wordWrites (p : Config.Params) (k : Reg) (v : Nat) (js : List Nat) : List Event :=
  js.map fun j => hostWrite p (operandOffset p k j) (wordAt v j)

theorem wrreg_eq (p : Config.Params) (k : Reg) (v : Nat) : wrreg p k v = wordWrites p k v (List.range p.words) := rfl

/-- The register value `u` after the words `js` of `v` have been written into it. -/
def loadWords (v : Nat) (js : List Nat) (u : Nat) : Nat := js.foldl (fun u j => setWordAt u j (wordAt v j)) u

theorem loadWords_cons (v j : Nat) (js : List Nat) (u : Nat) :
    loadWords v (j :: js) u = loadWords v js (setWordAt u j (wordAt v j)) := rfl

/-- After the words 0 to `n - 1` the low `32 * n` bits are those of `v`, whatever they were. -/
theorem testBit_loadWords_range (v n u b : Nat) :
    (loadWords v (List.range n) u).testBit b = if b < 32 * n then v.testBit b else u.testBit b := by
  induction n with
  | zero => simp [loadWords]
  | succ n ih =>
    have hsucc : loadWords v (List.range (n + 1)) u
        = setWordAt (loadWords v (List.range n) u) n (wordAt v n) := by
      simp [loadWords, List.range_succ]
    rw [hsucc, testBit_setWordAt, ih]
    by_cases hlo : b < 32 * n
    · rw [if_pos hlo, if_pos hlo, if_pos (by omega)]
    · rw [if_neg hlo, if_neg hlo]
      refine if_ctx_congr Iff.rfl (fun hhi => ?_) fun _ => rfl
      rw [getLsbD_wordAt v n _ (by omega), Nat.add_sub_of_le (not_lt.mp hlo)]

/-- All the words of a register are the register (20_memory.md R54). -/
theorem loadWords_range_eq {v u n : Nat} (hv : v < 2 ^ (32 * n)) (hu : u < 2 ^ (32 * n)) :
    loadWords v (List.range n) u = v := by
  apply Nat.eq_of_testBit_eq
  intro b
  rw [testBit_loadWords_range]
  split
  · rfl
  · have hle : 2 ^ (32 * n) ≤ 2 ^ b := Nat.pow_le_pow_right (by decide) (by omega)
    rw [Nat.testBit_lt_two_pow (hv.trans_le hle), Nat.testBit_lt_two_pow (hu.trans_le hle)]

/-- `t` is `s` with `x[k]` holding `v` and the host's writes done; no other register and nothing but the bus has
changed. -/
structure RegLoaded (s t : State) (k : Reg) (v : Nat) : Prop where
  reg : t.readReg k = v
  others : ∀ ρ, ρ ≠ k → t.readReg ρ = s.readReg ρ
  done : t.env.events = []
  frame : ({ t with x := s.x, env := s.env } : State) = s

/-- `s` after the host's write of word `j` of `x[k]` while Idle, with `es` still to come (20_memory.md R53). -/
def State.wordWritten (s : State) (k : Reg) (j : Nat) (w : Word) (es : List Event) : State :=
  ((s.withEvents es).writeReg k (setWordAt (s.readReg k) j w)).answer .written

theorem State.readReg_wordWritten (s : State) (k ρ : Reg) (j : Nat) (w : Word) (es : List Event) :
    (s.wordWritten k j w es).readReg ρ = if ρ = k then setWordAt (s.readReg k) j w else s.readReg ρ :=
  State.readReg_writeReg (s.withEvents es) k ρ _

theorem run_wordWrite {s : State} {k : Reg} {j : Nat} {w : Word} {es : List Event} (hidle : s.ctl = .idle)
    (hj : j < s.par.words) (he : s.env.events = hostWrite s.par (operandOffset s.par k j) w :: es) (n : Nat) :
    Sys2Proof.core.run (n + 1) s = Sys2Proof.core.run n (s.wordWritten k j w es) := by
  have hwrite : (s.withEvents es).hostWriteAt (operandOffset s.par k j) w
      = ((s.withEvents es).writeOperand k j w).answer .written := (s.withEvents es).hostAccess_write_operand k j w hj
  rw [run_hostWrite he, hwrite, State.writeOperand_idle (State.isBusy_of_idle (s := s.withEvents es) hidle)]
  rfl

/-- Running the host's writes of the words `js` of `v` to `x[k]` loads them, one after the other. -/
theorem run_wordWrites (k : Reg) (v : Nat) (js : List Nat) (s : State) (hidle : s.ctl = .idle)
    (hjs : ∀ j ∈ js, j < s.par.words) (he : s.env.events = wordWrites s.par k v js) :
    ∃ t : State, Sys2Proof.core.run js.length s = .next t ∧ RegLoaded s t k (loadWords v js (s.readReg k)) := by
  induction js generalizing s with
  | nil => exact ⟨s, rfl, rfl, fun _ _ => rfl, he, rfl⟩
  | cons j js ih =>
    obtain ⟨hj, hjs⟩ := List.forall_mem_cons.mp hjs
    obtain ⟨t, hrun, hreg, hothers, hdone, hframe⟩ :=
      ih (s.wordWritten k j (wordAt v j) (wordWrites s.par k v js)) hidle hjs rfl
    refine ⟨t, (run_wordWrite hidle hj he js.length).trans hrun, ?_, fun ρ hρ => ?_, hdone, ?_⟩
    · rw [hreg, State.readReg_wordWritten, if_pos rfl, loadWords_cons]
    · rw [hothers ρ hρ, State.readReg_wordWritten, if_neg hρ]
    · exact congrArg (fun u : State => { u with x := s.x, env := s.env }) hframe

/-- Settles O22: the writes of WRREG are those of all the words of the value, and these are the whole register. -/
theorem wrregLoadsAWholeRegister : Obligations.WrregLoadsAWholeRegister := by
  intro s k v hidle hfit hv he
  obtain ⟨t, hrun, hreg, hothers, hdone, hframe⟩ := run_wordWrites k v (List.range s.par.words) s hidle
    (fun _ => List.mem_range.mp) (he.trans (wrreg_eq s.par k v))
  rw [List.length_range] at hrun
  refine ⟨t, by rw [s.width_div_32, hrun], ?_, hothers, hdone, hframe⟩
  rw [hreg, loadWords_range_eq hv (hfit k)]

end Sys2Proof.Machine
end

section
/-! PROOF. The rules that the statements about one command rest on: how the words of an opcode decode and what they latch
(`EncodedAs`), and what a micro-step leaves that commits nothing, commits one register, or raises (60_exceptions.md R203,
R204). -/

namespace Sys2Proof.Machine

/-! Encoding and latch. -/

/-- Where the opcode decodes to a command, acceptance latches the command's sources, ARG, SENTINEL and MAXTRY
(70_reset_and_hazards.md R241). For one row of the opcode map (30_encoding.md R75) both hypotheses are read off the map. -/
theorem encodedAs_of_decode {op : BitVec 6} {f : Word → Instr} {srcs : Word → List Reg}
    (hd : ∀ cw, opField cw = op → decode cw = .ok (f cw) := by intro cw h; simp [decode, h])
    (hs : ∀ cw, (f cw).sources = srcs cw := by intro cw; rfl) : EncodedAs op f srcs := by
  intro cw hop
  refine ⟨hd cw hop, fun s => ⟨fun ρ hρ => ?_, rfl, rfl, rfl⟩⟩
  exact Running.src_of_snapshot (s.latch_snapshot cw) (hd cw hop) ((hs cw).symm ▸ hρ)

/-! The end of a command. -/

section
variable {s : State} {i : Instr} {rd : Reg} {v : Nat}

theorem ResultsKept.refl (s : State) (ds : List Reg) : ResultsKept s s ds :=
  ⟨fun _ _ => rfl, rfl, rfl, rfl, rfl, rfl, rfl, rfl⟩

/-- A write of one of the destinations keeps every other result. -/
theorem ResultsKept.writeReg {t : State} {ds : List Reg} (h : ResultsKept s t ds) {ρ : Reg} (hρ : ρ ∈ ds) (v : Nat) :
    ResultsKept s (t.writeReg ρ v) ds :=
  { h with
    regs := fun τ hτ => by
      have hne : τ ≠ ρ := fun e => hτ (e ▸ hρ)
      rw [State.readReg_writeReg, if_neg hne, h.regs τ hτ] }

/-- A completion writes no result (60_exceptions.md R203, R204). -/
theorem ResultsKept.complete {t : State} {ds : List Reg} (h : ResultsKept s t ds) (e : ErrCode) :
    ResultsKept s (t.complete e) ds :=
  { h with }

theorem State.ended_commit (s : State) : Ended s s.commit .ok := s.ended_raise .ok

theorem State.ended_commitReg (s : State) (rd : Reg) (v : Nat) : Ended s (s.commitReg rd v) .ok :=
  ⟨rfl, rfl, rfl, ⟨rfl, rfl, rfl, rfl, rfl, rfl, rfl, rfl⟩⟩

theorem commitsNothing_of_exec (h : exec i s = .next s.commit) : CommitsNothing i s :=
  ⟨_, h, s.ended_commit, (ResultsKept.refl s []).complete .ok, rfl⟩

theorem commitsReg_of_exec (h : exec i s = .next (s.commitReg rd v)) : CommitsReg i s rd v :=
  ⟨_, h, s.ended_commitReg rd v, by rw [State.readReg_commitReg, if_pos rfl],
    ((ResultsKept.refl s [rd]).writeReg (by simp) v).complete .ok, rfl⟩

theorem raises_of_exec {e : ErrCode} (h : exec i s = .next (s.raise e)) : Raises i s e :=
  ⟨_, h, s.ended_raise e, (ResultsKept.refl s []).complete e, rfl⟩

/-- An exact result is committed where it fits and is OVERFLOW where it does not (40_bigint.md R110). -/
theorem exact_of_exec (h : exec i s = .next (s.commitFitting rd v)) :
    (v < 2 ^ s.width → CommitsReg i s rd v) ∧ (2 ^ s.width ≤ v → Raises i s .overflow) := by
  rw [State.commitFitting] at h
  refine ⟨fun hfit => commitsReg_of_exec ?_, fun hbig => raises_of_exec ?_⟩
  · rw [h, if_neg (not_le.mpr hfit)]
  · rw [h, if_pos hbig]

end

end Sys2Proof.Machine
end

section
/-! PROOF. The big-integer unit and the modular multiplier (40_bigint.md): the micro-step of each command while Busy, once
as an equation, and the statements read off it. -/

namespace Sys2Proof.Machine

/-! One micro-step of each command. -/

section
variable {s : State} {r : Running} (hb : s.ctl = .busy r)
include hb

theorem exec_nop : exec .nop s = .next s.commit := State.whileBusy_busy hb _

theorem exec_ldi (rd : Reg) : exec (.ldi rd) s = .next (s.commitReg rd r.arg.toNat) := State.whileBusy_busy hb _

theorem exec_mov (rd rs1 : Reg) : exec (.mov rd rs1) s = .next (s.commitReg rd (r.src rs1)) := State.whileBusy_busy hb _

theorem exec_add (rd rs1 rs2 : Reg) :
    exec (.add rd rs1 rs2) s = .next (s.commitFitting rd (r.src rs1 + r.src rs2)) := State.whileBusy_busy hb _

theorem exec_sub_of_lt (rd : Reg) {rs1 rs2 : Reg} (h : r.src rs1 < r.src rs2) :
    exec (.sub rd rs1 rs2) s = .next (s.raise .underflow) :=
  (State.whileBusy_busy hb _).trans (if_pos h)

theorem exec_sub_of_le (rd : Reg) {rs1 rs2 : Reg} (h : r.src rs2 ≤ r.src rs1) :
    exec (.sub rd rs1 rs2) s = .next (s.commitReg rd (r.src rs1 - r.src rs2)) :=
  (State.whileBusy_busy hb _).trans (if_neg (not_lt.mpr h))

theorem exec_mul (rd rs1 rs2 : Reg) :
    exec (.mul rd rs1 rs2) s = .next (s.commitFitting rd (r.src rs1 * r.src rs2)) := State.whileBusy_busy hb _

theorem exec_divmod_of_zero (rd rs1 rr : Reg) {rs2 : Reg} (h : r.src rs2 = 0) :
    exec (.divmod rd rs1 rs2 rr) s = .next (s.raise .divZero) :=
  (State.whileBusy_busy hb _).trans (if_pos h)

/-- The quotient is written first, so the remainder stays in a register both name (40_bigint.md R106). -/
theorem exec_divmod_of_pos (rd rs1 rr : Reg) {rs2 : Reg} (h : 0 < r.src rs2) :
    exec (.divmod rd rs1 rs2 rr) s
      = .next ((s.writeReg rd (r.src rs1 / r.src rs2)).commitReg rr (r.src rs1 % r.src rs2)) :=
  (State.whileBusy_busy hb _).trans (if_neg h.ne')

theorem exec_cmp (rs1 rs2 : Reg) :
    exec (.cmp rs1 rs2) s = .next ({ s with status := s.status.compared (r.src rs1) (r.src rs2) } : State).commit :=
  State.whileBusy_busy hb _

theorem exec_bitlen (rd rs1 : Reg) : exec (.bitlen rd rs1) s = .next (s.commitReg rd (bitlen (r.src rs1))) :=
  State.whileBusy_busy hb _

theorem exec_modmul_of_zero (rd rs1 rs2 : Reg) {rs3 : Reg} (h : r.src rs3 = 0) :
    exec (.modmul rd rs1 rs2 rs3) s = .next (s.raise .divZero) :=
  (State.whileBusy_busy hb _).trans (if_pos h)

theorem exec_modmul_of_pos (rd rs1 rs2 : Reg) {rs3 : Reg} (h : 0 < r.src rs3) :
    exec (.modmul rd rs1 rs2 rs3) s = .next (s.commitReg rd (r.src rs1 * r.src rs2 % r.src rs3)) :=
  (State.whileBusy_busy hb _).trans (if_neg h.ne')

end

/-! NOP, LDI and MOV (40_bigint.md R100 to R102). -/

/-- Settles O30: NOP's micro-step is a bare commit. -/
theorem nopCommitsAndChangesNothing : Obligations.NopCommitsAndChangesNothing :=
  ⟨encodedAs_of_decode, fun _ _ hb => commitsNothing_of_exec (exec_nop hb)⟩

/-- Settles O31: both commit one register, LDI the latched ARG and MOV the latched source. -/
theorem ldiLoadsTheArgumentAndMovCopies : Obligations.LdiLoadsTheArgumentAndMovCopies := by
  refine ⟨encodedAs_of_decode, encodedAs_of_decode, fun s r rd rs1 hb => ⟨?_, ?_⟩⟩
  · exact commitsReg_of_exec (exec_ldi hb rd)
  · exact commitsReg_of_exec (exec_mov hb rd rs1)

/-! ADD, SUB and MUL (40_bigint.md R103 to R105). -/

/-- Settles O32: the sum is committed only where it fits. -/
theorem addIsExact : Obligations.AddIsExact :=
  ⟨encodedAs_of_decode, fun _ _ rd rs1 rs2 hb => exact_of_exec (exec_add hb rd rs1 rs2)⟩

/-- Settles O33: where the minuend is the subtrahend plus `d`, truncated subtraction gives `d`. -/
theorem subIsExact : Obligations.SubIsExact := by
  refine ⟨encodedAs_of_decode,
    fun s r rd rs1 rs2 hb => ⟨fun d hd => commitsReg_of_exec ?_, fun hlt => raises_of_exec (exec_sub_of_lt hb rd hlt)⟩⟩
  rw [exec_sub_of_le hb rd (by omega), hd, Nat.add_sub_cancel_left]

/-- Settles O34: the product is committed only where it fits. -/
theorem mulIsExact : Obligations.MulIsExact :=
  ⟨encodedAs_of_decode, fun _ _ rd rs1 rs2 hb => exact_of_exec (exec_mul hb rd rs1 rs2)⟩

/-! DIVMOD (40_bigint.md R106). -/

/-- Settles O35: the remainder is written last, and the two results meet the division identity. -/
theorem divmodDividesWithRemainder : Obligations.DivmodDividesWithRemainder := by
  refine ⟨encodedAs_of_decode, fun s r rd rs1 rs2 rr hb =>
    ⟨fun hz => raises_of_exec (exec_divmod_of_zero hb rd rs1 rr hz), fun hpos => ?_⟩⟩
  have hexec := exec_divmod_of_pos hb rd rs1 rr hpos
  refine ⟨_, _, _, hexec, (commandStep_of_exec hb hexec).ended rfl, (Nat.div_add_mod' _ _).symm, Nat.mod_lt _ hpos,
    ?_, fun hne => ?_, ?_, rfl⟩
  · rw [State.readReg_commitReg, if_pos rfl]
  · rw [State.readReg_commitReg, if_neg hne, State.readReg_writeReg, if_pos rfl]
  · exact (((ResultsKept.refl s [rd, rr]).writeReg (by simp) _).writeReg (by simp) _).complete .ok

/-! CMP, BITLEN and MODMUL (40_bigint.md R107 to R109). -/

/-- Settles O36: CMP commits with EQ and LT as the comparisons of the two latched sources. -/
theorem cmpWritesEqAndLt : Obligations.CmpWritesEqAndLt := by
  refine ⟨encodedAs_of_decode, fun s r rs1 rs2 hb => ?_⟩
  have hexec := exec_cmp hb rs1 rs2
  exact ⟨_, hexec, (commandStep_of_exec hb hexec).ended rfl, decide_eq_true_iff, decide_eq_true_iff, rfl, rfl,
    fun _ => rfl, rfl, rfl, rfl, rfl⟩

/-- Settles O37: `bitlen` is the least length (00_scope.md R8), and BITLEN commits it. -/
theorem bitlenIsTheLeastLength : Obligations.BitlenIsTheLeastLength :=
  ⟨encodedAs_of_decode, fun _ r rd rs1 hb =>
    ⟨bitlen (r.src rs1), commitsReg_of_exec (exec_bitlen hb rd rs1), fun k => (bitlen_le_iff _ k).symm⟩⟩

/-- Settles O38: a modulus of 0 raises, and any other reduces the exact product. -/
theorem modmulReducesTheExactProduct : Obligations.ModmulReducesTheExactProduct :=
  ⟨encodedAs_of_decode, fun _ _ rd rs1 rs2 _ hb =>
    ⟨fun hz => raises_of_exec (exec_modmul_of_zero hb rd rs1 rs2 hz),
      fun hpos => commitsReg_of_exec (exec_modmul_of_pos hb rd rs1 rs2 hpos)⟩⟩

end Sys2Proof.Machine
end

section
/-! PROOF. The random source (41_random.md): the micro-step of each of its commands while Busy, once as an equation, the
statements read off it, and the commands that may change the generator (R130, R136). -/

namespace Sys2Proof

theorem Instr.eq_of_usesGenerator {i : Instr} (h : i.usesGenerator = true) :
    (∃ rs1, i = .seed rs1) ∨ i = .rngclr ∨ (∃ rd, i = .randb rd) ∨ (∃ rd rs1, i = .randm rd rs1)
      ∨ (∃ rd rs1, i = .isprime rd rs1) ∨ (∃ rd, i = .makeprime rd) := by
  unfold Instr.usesGenerator at h
  split at h
  case h_7 => cases h
  all_goals simp

end Sys2Proof

namespace Sys2Proof.Machine

/-- Settles O17: a micro-step of an Idle controller changes nothing, and a running command that is none of the six leaves
the generator alone. -/
theorem onlyRandomCommandsChangeTheGenerator : Obligations.OnlyRandomCommandsChangeTheGenerator := by
  intro i s t h hne
  obtain ⟨-, rfl⟩ | ⟨r, -, hstep⟩ := exec_cases h
  · exact absurd rfl hne
  · exact Instr.eq_of_usesGenerator ((Bool.eq_false_or_eq_true _).resolve_right fun hi => hne (hstep.rng_eq hi))

/-- The generator is none of the results that `ResultsKept` speaks of. -/
theorem ResultsKept.setRng (s : State) (g : Rng) (ds : List Reg) : ResultsKept s (s.setRng g) ds :=
  { ResultsKept.refl s ds with }

/-! One micro-step of each command. -/

section
variable {s : State} {r : Running} (hb : s.ctl = .busy r)
include hb

theorem exec_seed (rs1 : Reg) :
    exec (.seed rs1) s = .next (s.setRng (.seeded (Config.generator.seed (r.src rs1)))).commit :=
  State.whileBusy_busy hb _

theorem exec_rngclr : exec .rngclr s = .next (s.setRng .unseeded).commit := State.whileBusy_busy hb _

theorem exec_randb_of_unseeded (rd : Reg) (hrng : s.rng = .unseeded) :
    exec (.randb rd) s = .next (s.raise .noSeed) :=
  (State.whileBusy_busy hb _).trans (by simp only [hrng])

theorem exec_randb_of_seeded (rd : Reg) {σ : Config.RngState} (hrng : s.rng = .seeded σ) :
    exec (.randb rd) s =
      if s.width < r.arg.toNat then .next (s.raise .badArg)
      else .next ((s.setRng (.seeded (drawB Config.generator σ r.arg.toNat).2)).commitReg rd
        (drawB Config.generator σ r.arg.toNat).1) :=
  (State.whileBusy_busy hb _).trans (by simp only [hrng]; rfl)

theorem exec_randm_of_unseeded (rd rs1 : Reg) (hrng : s.rng = .unseeded) :
    exec (.randm rd rs1) s = .next (s.raise .noSeed) :=
  (State.whileBusy_busy hb _).trans (by simp only [hrng])

theorem exec_randm_of_seeded (rd rs1 : Reg) {σ : Config.RngState} (hrng : s.rng = .seeded σ) :
    exec (.randm rd rs1) s =
      if r.src rs1 = 0 then .next (s.raise .badArg)
      else .next ((s.setRng (.seeded (drawM Config.generator σ (r.src rs1)).2)).commitReg rd
        (drawM Config.generator σ (r.src rs1)).1) :=
  (State.whileBusy_busy hb _).trans (by simp only [hrng])

/-! The two ways to commit with the generator changed. -/

variable {i : Instr} {rd : Reg} {v bound : Nat} {g : Rng}

/-- A commit that writes the generator alone; RNGSTAT then reads what it has become (10_state.md R38). -/
theorem setsRng_of_exec (h : exec i s = .next (s.setRng g).commit) :
    ∃ t, exec i s = .next t ∧ Ended s t .ok ∧ t.rng = g
      ∧ t.rngstatWord = (if g = .unseeded then 0#32 else 1#32) ∧ ResultsKept s t [] :=
  ⟨_, h, (commandStep_of_exec hb h).ended rfl, rfl, State.rngstatWord_eq _, (ResultsKept.setRng s g []).complete .ok⟩

/-- A commit that writes a drawn value, which is below the bound of the draw, and the next generator state. -/
theorem drawsReg_of_exec (h : exec i s = .next ((s.setRng g).commitReg rd v)) (hv : v < bound) :
    ∃ t, exec i s = .next t ∧ Ended s t .ok ∧ t.readReg rd = v ∧ t.readReg rd < bound ∧ t.rng = g
      ∧ ResultsKept s t [rd] := by
  have hread : ((s.setRng g).commitReg rd v).readReg rd = v := by rw [State.readReg_commitReg, if_pos rfl]
  exact ⟨_, h, (commandStep_of_exec hb h).ended rfl, hread, hread.trans_lt hv, rfl,
    ((ResultsKept.setRng s g [rd]).writeReg (by simp) v).complete .ok⟩

end

/-! The statements of the four commands (41_random.md R132 to R135). -/

/-- Settles O39: both commit with the generator alone replaced, whatever it was before. -/
theorem seedInitialisesAndRngclrTearsDown : Obligations.SeedInitialisesAndRngclrTearsDown := by
  refine ⟨encodedAs_of_decode, encodedAs_of_decode, fun s r rs1 hb => ⟨?_, ?_⟩⟩
  · exact setsRng_of_exec hb (exec_seed hb rs1)
  · exact setsRng_of_exec hb (exec_rngclr hb)

/-- Settles O40: NOSEED is tested first, then the width, and a draw of `bits` bits is below `2^bits`. -/
theorem randbDrawsBelowTheWidth : Obligations.RandbDrawsBelowTheWidth := by
  refine ⟨encodedAs_of_decode, fun s r rd hb => ⟨fun hrng => ?_, fun σ hrng hwide => ?_, fun σ hrng hfit => ?_⟩⟩
  · exact raises_of_exec (exec_randb_of_unseeded hb rd hrng)
  · exact raises_of_exec ((exec_randb_of_seeded hb rd hrng).trans (if_pos hwide))
  · exact drawsReg_of_exec hb ((exec_randb_of_seeded hb rd hrng).trans (if_neg (not_lt.mpr hfit))) (drawB_lt _ σ _)

/-- Settles O41: NOSEED is tested first, then the bound, and a draw under a positive bound is below it. -/
theorem randmDrawsBelowTheBound : Obligations.RandmDrawsBelowTheBound := by
  refine ⟨encodedAs_of_decode, fun s r rd rs1 hb => ⟨fun hrng => ?_, fun σ hrng hz => ?_, fun σ hrng hpos => ?_⟩⟩
  · exact raises_of_exec (exec_randm_of_unseeded hb rd rs1 hrng)
  · exact raises_of_exec ((exec_randm_of_seeded hb rd rs1 hrng).trans (if_pos hz))
  · exact drawsReg_of_exec hb ((exec_randm_of_seeded hb rd rs1 hrng).trans (if_neg hpos.ne')) (drawM_lt _ σ _ hpos)

end Sys2Proof.Machine
end

section
/-! PROOF. The GCD unit (42_gcd.md): the micro-step of GCD and of MODINV while Busy, once as an equation, and the statements
read off it. -/

namespace Sys2Proof.Machine

/-! The inverse modulo `n`. -/

/-- An inverse modulo `n` in `[0, n)` is the only one: what has an inverse can be cancelled modulo `n`. -/
theorem eq_of_mul_mod_eq {a n v w : Nat} (hco : Nat.gcd a n = 1) (hv : v < n) (hw : w < n)
    (h : a * w % n = a * v % n) : w = v := by
  have hcancel : w ≡ v [MOD n] := Nat.ModEq.cancel_left_of_coprime ((Nat.gcd_comm n a).trans hco) h
  exact hcancel.eq_of_lt_of_lt hw hv

/-- Coprime to `n` is enough for MODINV to find an inverse (42_gcd.md R141). -/
theorem exists_modInverse_of_coprime {a n : Nat} (hn : 0 < n) (hco : Nat.gcd a n = 1) :
    ∃ v, modInverse a n = some v :=
  Option.ne_none_iff_exists'.mp fun hnone => (modInverse_eq_none_iff a n hn).mp hnone hco

/-! One micro-step of each command. -/

section
variable {s : State} {r : Running} (hb : s.ctl = .busy r)
include hb

theorem exec_gcd (rd rs1 rs2 : Reg) :
    exec (.gcd rd rs1 rs2) s = .next (s.commitReg rd (Nat.gcd (r.src rs1) (r.src rs2))) := by
  rw [← euclid_eq]
  exact State.whileBusy_busy hb _

theorem exec_modinv_of_zero (rd rs1 : Reg) {rs2 : Reg} (h : r.src rs2 = 0) :
    exec (.modinv rd rs1 rs2) s = .next (s.raise .divZero) :=
  (State.whileBusy_busy hb _).trans (if_pos h)

theorem exec_modinv_of_none (rd : Reg) {rs1 rs2 : Reg} (hpos : 0 < r.src rs2)
    (h : modInverse (r.src rs1) (r.src rs2) = none) : exec (.modinv rd rs1 rs2) s = .next (s.raise .noInv) :=
  (State.whileBusy_busy hb _).trans ((if_neg hpos.ne').trans (by rw [h]))

theorem exec_modinv_of_some (rd : Reg) {rs1 rs2 : Reg} {v : Nat} (hpos : 0 < r.src rs2)
    (h : modInverse (r.src rs1) (r.src rs2) = some v) : exec (.modinv rd rs1 rs2) s = .next (s.commitReg rd v) :=
  (State.whileBusy_busy hb _).trans ((if_neg hpos.ne').trans (by rw [h]))

end

/-! The statements of the two commands (42_gcd.md R140, R141). -/

/-- Settles O42: the Euclid unit computes the gcd, which every common divisor divides. -/
theorem gcdIsTheGreatestCommonDivisor : Obligations.GcdIsTheGreatestCommonDivisor :=
  ⟨encodedAs_of_decode, fun _ r rd rs1 rs2 hb =>
    ⟨Nat.gcd (r.src rs1) (r.src rs2), commitsReg_of_exec (exec_gcd hb rd rs1 rs2), Nat.gcd_dvd_left _ _,
      Nat.gcd_dvd_right _ _, fun _ => Nat.dvd_gcd⟩⟩

/-- Settles O43: the extended Euclidean algorithm fails exactly when the gcd is not 1, and an inverse in `[0, n)` is
unique. -/
theorem modinvIsTheInverseOrNoinv : Obligations.ModinvIsTheInverseOrNoinv := by
  refine ⟨encodedAs_of_decode, fun s r rd rs1 rs2 hb =>
    ⟨fun hz => raises_of_exec (exec_modinv_of_zero hb rd rs1 hz), fun hpos hne => ?_, fun hpos hco => ?_⟩⟩
  · have hnone := (modInverse_eq_none_iff _ _ hpos).mpr hne
    exact raises_of_exec (exec_modinv_of_none hb rd hpos hnone)
  · obtain ⟨v, hsome⟩ := exists_modInverse_of_coprime hpos hco
    obtain ⟨hv, hinv⟩ := modInverse_eq_some _ _ v hpos hsome
    exact ⟨v, commitsReg_of_exec (exec_modinv_of_some hb rd hpos hsome), hv, hinv,
      fun w hw hw1 => eq_of_mul_mod_eq hco hv hw (hw1.trans hinv.symm)⟩

end Sys2Proof.Machine
end

section
/-! PROOF. The exponentiation engine (43_powmod.md): the micro-step of POWMOD while Busy, once as an equation per case of
the modulus, and the statement read off it. -/

namespace Sys2Proof.Machine

/-! One micro-step of POWMOD. -/

section
variable {s : State} {r : Running} (hb : s.ctl = .busy r)
include hb

theorem exec_powmod_of_zero (rd rs1 rs2 : Reg) {rs3 : Reg} (h : r.src rs3 = 0) :
    exec (.powmod rd rs1 rs2 rs3) s = .next (s.raise .divZero) :=
  (State.whileBusy_busy hb _).trans (if_pos h)

/-- Square-and-multiply leaves the power reduced (43_powmod.md R152). -/
theorem exec_powmod_of_pos (rd rs1 rs2 : Reg) {rs3 : Reg} (h : 0 < r.src rs3) :
    exec (.powmod rd rs1 rs2 rs3) s = .next (s.commitReg rd (r.src rs1 ^ r.src rs2 % r.src rs3)) := by
  rw [← powmod_eq _ _ _ h]
  exact (State.whileBusy_busy hb _).trans (if_neg h.ne')

end

/-! The statement of POWMOD (43_powmod.md R150). -/

/-- Settles O44: a modulus of 0 raises, and any other reduces the power that square-and-multiply computes. -/
theorem powmodIsThePowerReduced : Obligations.PowmodIsThePowerReduced :=
  ⟨encodedAs_of_decode, fun _ _ rd rs1 rs2 _ hb =>
    ⟨fun hz => raises_of_exec (exec_powmod_of_zero hb rd rs1 rs2 hz),
      fun hpos => commitsReg_of_exec (exec_powmod_of_pos hb rd rs1 rs2 hpos)⟩⟩

end Sys2Proof.Machine
end

section
/-! PROOF. The Miller-Rabin round (44_isprime.md R161): what it tests, and why no prime fails it (R164). -/

namespace Sys2Proof.Machine

/-- A round as a statement on the powers of its witness (44_isprime.md R161). With `s = 0` the loop only tests
`a^r` once more. -/
theorem mrRound_eq_inconclusive_iff {n : Nat} (sh odd a : Nat) (hn : 4 ≤ n) :
    mrRound n sh odd a = .inconclusive
      ↔ a ^ odd % n = 1 ∨ a ^ odd % n = n - 1 ∨ ∃ j, j < sh ∧ a ^ (2 ^ j * odd) % n = n - 1 := by
  have hsquare (j : Nat) : (a ^ odd % n) ^ 2 ^ j % n = a ^ (2 ^ j * odd) % n := by
    rw [← Nat.pow_mod, ← pow_mul, mul_comm]
  rw [mrRound, powmod_eq _ _ _ (by omega)]
  split
  · next hone => simp [← or_assoc, hone]
  · next hone =>
    rw [squareLoop_eq_inconclusive_iff n _ _ hn (Nat.mod_lt _ (by omega))]
    simp only [hsquare, ← or_assoc, hone, false_or]
    refine ⟨fun ⟨j, hj, h⟩ => ⟨j, ?_, h⟩, fun ⟨j, hj, h⟩ => ⟨j, by omega, h⟩⟩
    have hj0 : j ≠ 0 := by
      rintro rfl
      exact hone (.inr (by simpa using h))
    omega

/-- Settles O45: the squaring loop looks for `n - 1` among the powers `a^(2^j * r)`. -/
theorem millerRabinRoundIsTheStrongTest : Obligations.MillerRabinRoundIsTheStrongTest :=
  fun _ sh odd a hn => mrRound_eq_inconclusive_iff sh odd a hn

/-! Primes. -/

/-- Without zero divisors the only square roots of 1 are 1 and -1, so squaring reaches 1 only from 1 or through -1. -/
theorem eq_one_or_exists_pow_eq_neg_one {R : Type*} [Ring R] [NoZeroDivisors R] (x : R) (k : Nat)
    (h : x ^ 2 ^ k = 1) : x = 1 ∨ ∃ j, j < k ∧ x ^ 2 ^ j = -1 := by
  induction k with
  | zero => exact .inl (by simpa using h)
  | succ k ih =>
    rw [pow_succ, pow_mul, sq_eq_one_iff] at h
    obtain h1 | hneg := h
    · exact (ih h1).imp_right fun ⟨j, hj, hx⟩ => ⟨j, by omega, hx⟩
    · exact .inr ⟨k, by omega, hneg⟩

/-- A round on a prime is inconclusive for every witness (44_isprime.md R164): by Fermat, squaring `a^r` ends at 1. -/
theorem mrRound_eq_inconclusive_of_prime {n sh odd a : Nat} (hp : n.Prime) (hn : 4 ≤ n) (hdec : n - 1 = 2 ^ sh * odd)
    (hlo : 0 < a) (hhi : a < n) : mrRound n sh odd a = .inconclusive := by
  have := Fact.mk hp
  have ha : (a : ZMod n) ≠ 0 := by
    rw [Ne, ZMod.natCast_eq_zero_iff]
    exact Nat.not_dvd_of_pos_of_lt hlo hhi
  have hfermat : ((a : ZMod n) ^ odd) ^ 2 ^ sh = 1 := by
    rw [← pow_mul, mul_comm, ← hdec]
    exact ZMod.pow_card_sub_one_eq_one ha
  rw [mrRound_eq_inconclusive_iff sh odd a hn]
  obtain hone | ⟨j, hj, hneg⟩ := eq_one_or_exists_pow_eq_neg_one _ sh hfermat
  · have hcast : ((a ^ odd : ℕ) : ZMod n) = (1 : ℕ) := by simpa using hone
    rw [ZMod.natCast_eq_natCast_iff', Nat.mod_eq_of_lt (a := 1) (by omega)] at hcast
    exact .inl hcast
  · have hcast : ((a ^ (2 ^ j * odd) : ℕ) : ZMod n) = (n - 1 : ℕ) := by
      rw [Nat.cast_pow, mul_comm, pow_mul, hneg, Nat.cast_sub (by omega), ZMod.natCast_self, Nat.cast_one, zero_sub]
    rw [ZMod.natCast_eq_natCast_iff', Nat.mod_eq_of_lt (a := n - 1) (by omega)] at hcast
    exact .inr (.inr ⟨j, hj, hcast⟩)

end Sys2Proof.Machine
end

section
/-! PROOF. ISPRIME (44_isprime.md R160 to R164): its micro-steps while Busy, once as an equation for each case, the
statements about one micro-step, and the run of a whole command with no event to come. -/

namespace Sys2Proof.Machine

/-! The two kinds of micro-step. -/

section
variable (s : State) (r : Running) (rd : Reg) {n : Nat}

/-- The trivial cases need no draw (44_isprime.md R160). -/
theorem isprimeFirst_of_le_three (h : n ≤ 3) : isprimeFirst rd n r s = s.commitVerdict rd (decide (2 ≤ n)) := by
  unfold isprimeFirst
  split_ifs with h1 h23
  · rw [decide_eq_false (by omega)]
  · rw [decide_eq_true (by omega)]
  · omega

theorem isprimeFirst_of_four_le (h : 4 ≤ n) :
    isprimeFirst rd n r s = s.setProgress r (.primeLoop (decompose (n - 1)).1 (decompose (n - 1)).2 0) := by
  rw [isprimeFirst, if_neg (by omega), if_neg (by omega)]

variable (g : Config.Generator) (σ : Config.RngState) {sh odd i : Nat}

theorem isprimePass_of_eq_iters (h : i = r.iters) : isprimePass g rd n r σ sh odd i s = s.commitVerdict rd true :=
  if_pos h

theorem isprimePass_of_composite (hi : i ≠ r.iters) (h : mrRound n sh odd (drawWitness g σ n).1 = .composite) :
    isprimePass g rd n r σ sh odd i s
      = (s.withDraws (.seeded (drawWitness g σ n).2) s.trycnt (s.rndcnt + 1#32)).commitVerdict rd false := by
  rw [isprimePass, if_neg hi, h]
  rfl

theorem isprimePass_of_inconclusive (hi : i ≠ r.iters) (h : mrRound n sh odd (drawWitness g σ n).1 = .inconclusive) :
    isprimePass g rd n r σ sh odd i s
      = (s.withDraws (.seeded (drawWitness g σ n).2) s.trycnt (s.rndcnt + 1#32)).setProgress r
          (.primeLoop sh odd (i + 1)) := by
  rw [isprimePass, if_neg hi, h]
  rfl

/-- A witness is the draw plus 2, in `[2, n - 2]` (44_isprime.md R163). -/
theorem drawWitness_spec (hn : 4 ≤ n) :
    drawM g σ (n - 3) = ((drawWitness g σ n).1 - 2, (drawWitness g σ n).2) ∧ 2 ≤ (drawWitness g σ n).1
      ∧ (drawWitness g σ n).1 ≤ n - 2 := by
  have hlt := drawM_lt g σ (n - 3) (by omega)
  simp only [drawWitness, Nat.add_sub_cancel_left, true_and]
  omega

end

theorem Rng.exists_of_isSeeded {g : Rng} (h : g.isSeeded = true) : ∃ σ, g = .seeded σ := by
  cases g with
  | unseeded => cases h
  | seeded σ => exact ⟨σ, rfl⟩

section
variable {s : State} {r : Running} (hb : s.ctl = .busy r)
include hb

theorem exec_isprime_of_unseeded (rd rs1 : Reg) (hrng : s.rng = .unseeded) :
    exec (.isprime rd rs1) s = .next (s.raise .noSeed) :=
  (State.whileBusy_busy hb _).trans (by simp only [hrng])

theorem exec_isprime_of_start (rd rs1 : Reg) {σ : Config.RngState} (hrng : s.rng = .seeded σ)
    (hp : r.progress = .start) : exec (.isprime rd rs1) s = .next (isprimeFirst rd (r.src rs1) r s) :=
  (State.whileBusy_busy hb _).trans (by simp only [hrng, hp])

theorem exec_isprime_of_primeLoop (rd rs1 : Reg) {σ : Config.RngState} {sh odd i : Nat} (hrng : s.rng = .seeded σ)
    (hp : r.progress = .primeLoop sh odd i) :
    exec (.isprime rd rs1) s = .next (isprimePass Config.generator rd (r.src rs1) r σ sh odd i s) :=
  (State.whileBusy_busy hb _).trans (by simp only [hrng, hp])

end

/-! What a verdict and a boundary leave. -/

section
variable (s : State) (rd : Reg) (v : Bool) (g : Rng) (tries rounds : Word)

theorem State.ended_commitVerdict : Ended s (s.commitVerdict rd v) .ok :=
  ⟨rfl, rfl, rfl, ⟨rfl, rfl, rfl, rfl, rfl, rfl, rfl, rfl⟩⟩

/-- A verdict writes `x[rd]` and RES, and of the counters only RNDCNT may have moved (44_isprime.md R160). -/
theorem ResultsKept.commitVerdict :
    ResultsKept s
      { (s.withDraws g s.trycnt rounds).commitVerdict rd v with
        status := { ((s.withDraws g s.trycnt rounds).commitVerdict rd v).status with res := s.status.res }
        rndcnt := s.rndcnt } [rd] :=
  ((ResultsKept.setRng s g [rd]).writeReg (by simp) v.toNat).complete .ok

theorem State.readReg_commitVerdict_same : (s.commitVerdict rd v).readReg rd = v.toNat := by
  rw [State.readReg_commitVerdict, if_pos rfl]

/-- A boundary keeps everything but the progress, the generator and the counters (60_exceptions.md R203, R207). -/
theorem State.goesOn_withDraws (r : Running) (p : Progress) :
    GoesOn s ((s.withDraws g tries rounds).setProgress r p) r p :=
  ⟨rfl, rfl, fun _ => rfl, rfl, ⟨rfl, rfl, rfl, rfl, rfl, rfl, rfl, rfl⟩⟩

end

/-! One micro-step (44_isprime.md R160 to R163). -/

/-- Settles O46: NOSEED is tested first; up to 3 the verdict needs no draw; above 3 the loop begins at the
decomposition. -/
theorem isprimeFirstStepDecidesTheTrivialCases : Obligations.IsprimeFirstStepDecidesTheTrivialCases := by
  refine ⟨encodedAs_of_decode,
    fun s r rd rs1 hb hp => ⟨fun hrng => ?_, fun hseeded hle => ?_, fun hseeded hge => ?_⟩⟩
  · exact raises_of_exec (exec_isprime_of_unseeded hb rd rs1 hrng)
  · obtain ⟨σ, hσ⟩ := Rng.exists_of_isSeeded hseeded
    have hexec := exec_isprime_of_start hb rd rs1 hσ hp
    rw [isprimeFirst_of_le_three s r rd hle] at hexec
    refine ⟨_, hexec, s.ended_commitVerdict rd _, ?_, rfl, ResultsKept.commitVerdict s rd _ s.rng s.rndcnt, rfl⟩
    rw [s.readReg_commitVerdict_same]
    split
    · rw [decide_eq_false (by omega), Bool.toNat_false]
    · rw [decide_eq_true (by omega), Bool.toNat_true]
  · obtain ⟨σ, hσ⟩ := Rng.exists_of_isSeeded hseeded
    have hexec := exec_isprime_of_start hb rd rs1 hσ hp
    rw [isprimeFirst_of_four_le s r rd hge] at hexec
    obtain ⟨hdec, hodd⟩ := decompose_spec (r.src rs1 - 1) (by omega)
    exact ⟨_, _, _, hexec, s.goesOn_withDraws s.rng s.trycnt s.rndcnt r _, hdec, hodd, rfl, rfl, rfl⟩

/-- Settles O47: a pass ends the rounds, or draws one witness and goes by the verdict of its round. -/
theorem isprimePassRunsOneRound : Obligations.IsprimePassRunsOneRound := by
  intro s r rd rs1 σ sh odd i hb hp hσ hn
  have hexec := exec_isprime_of_primeLoop hb rd rs1 hσ hp
  refine ⟨fun hi => ?_, fun hi => ?_⟩
  · rw [isprimePass_of_eq_iters s r rd _ σ hi] at hexec
    exact ⟨_, hexec, s.ended_commitVerdict rd true, s.readReg_commitVerdict_same rd true, rfl,
      ResultsKept.commitVerdict s rd true s.rng s.rndcnt, rfl⟩
  · obtain ⟨hdraw, hlo, hhi⟩ := drawWitness_spec Config.generator σ hn
    cases hv : mrRound (r.src rs1) sh odd (drawWitness Config.generator σ (r.src rs1)).1 with
    | composite =>
      rw [isprimePass_of_composite s r rd _ σ hi hv] at hexec
      refine ⟨_, _, _, hdraw, hlo, hhi, hexec, rfl, rfl, rfl, fun h => ?_, fun _ => ?_⟩
      · cases hv.symm.trans h
      · exact ⟨(commandStep_of_exec hb hexec).ended rfl, State.readReg_commitVerdict_same _ rd false, rfl,
          ResultsKept.commitVerdict s rd false _ _⟩
    | inconclusive =>
      rw [isprimePass_of_inconclusive s r rd _ σ hi hv] at hexec
      refine ⟨_, _, _, hdraw, hlo, hhi, hexec, rfl, rfl, rfl, fun _ => s.goesOn_withDraws _ _ _ r _, fun h => ?_⟩
      cases hv.symm.trans h

/-! Runs with no event to come (log 3). -/

theorem microStep_of_decode {s : State} {r : Running} {i : Instr} (hb : s.ctl = .busy r) (ha : r.abortReq = false)
    (hd : decode r.cw = .ok i) : microStep s = exec i s := by
  simp [microStep, hb, ha, hd]

/-- The controller steps by itself, and the step is the decoded command's (60_exceptions.md R207). -/
theorem run_exec {s t : State} {r : Running} {i : Instr} (he : s.env.events = []) (hb : s.ctl = .busy r)
    (ha : r.abortReq = false) (hd : decode r.cw = .ok i) (h : exec i s = .next t) (k : Nat) :
    Sys2Proof.core.run (k + 1) s = Sys2Proof.core.run k t := by
  have hstep : Sys2Proof.core.step s = .next t :=
    (step_of_no_event he).trans ((microStep_of_decode hb ha hd).trans h)
  simp only [Host.Core.run, hstep]

/-- An Idle controller waits (70_reset_and_hazards.md R233). -/
theorem run_idle {s : State} (he : s.env.events = []) (hi : s.ctl = .idle) (k : Nat) :
    Sys2Proof.core.run k s = .next s := by
  induction k with
  | zero => rfl
  | succ k ih =>
    have hstep : Sys2Proof.core.step s = .next s := (step_of_no_event he).trans (microStep_idle hi)
    simpa only [Host.Core.run, hstep] using ih

/-- `s` runs ISPRIME with the progress `p` and the generator state `σ`; no abort is pending and no event is to come. -/
structure State.RunsIsprime (s : State) (r : Running) (rd rs1 : Reg) (σ : Config.RngState) (p : Progress) : Prop where
  events : s.env.events = []
  busy : s.ctl = .busy r
  no_abort : r.abortReq = false
  decoded : decode r.cw = .ok (.isprime rd rs1)
  progress : r.progress = p
  seeded : s.rng = .seeded σ

namespace State.RunsIsprime

variable {s t : State} {r : Running} {rd rs1 : Reg} {σ : Config.RngState} {p : Progress}

/-- The next progress of a run, after a boundary. -/
theorem setProgress (h : s.RunsIsprime r rd rs1 σ p) {g : Rng} {σ' : Config.RngState} (hg : g = .seeded σ')
    (q : Progress) (tries rounds : Word) :
    ((s.withDraws g tries rounds).setProgress r q).RunsIsprime { r with progress := q } rd rs1 σ' q :=
  ⟨h.events, rfl, h.no_abort, h.decoded, rfl, hg⟩

theorem run_succ (h : s.RunsIsprime r rd rs1 σ p) (hx : exec (.isprime rd rs1) s = .next t) (k : Nat) :
    Sys2Proof.core.run (k + 1) s = Sys2Proof.core.run k t :=
  run_exec h.events h.busy h.no_abort h.decoded hx k

/-- A verdict ends the run, however many steps are left. -/
theorem run_verdict (h : s.RunsIsprime r rd rs1 σ p) {v : Bool} {g : Rng} {rounds : Word}
    (hx : exec (.isprime rd rs1) s = .next ((s.withDraws g s.trycnt rounds).commitVerdict rd v)) (k : Nat) :
    Sys2Proof.core.run (k + 1) s = .next ((s.withDraws g s.trycnt rounds).commitVerdict rd v) :=
  (h.run_succ hx k).trans (run_idle (s := (s.withDraws g s.trycnt rounds).commitVerdict rd v) h.events rfl k)

/-- With `m` rounds left the run ends within `m + 1` micro-steps with a verdict; for a prime the verdict is 1, after all
`m` rounds (44_isprime.md R160, R164). -/
theorem run_rounds {sh odd i m : Nat} (h : s.RunsIsprime r rd rs1 σ (.primeLoop sh odd i)) (hm : i + m = r.iters)
    (hn : 4 ≤ r.src rs1) (hdec : r.src rs1 - 1 = 2 ^ sh * odd) :
    ∃ (g : Rng) (rounds : Word) (v : Bool),
      Sys2Proof.core.run (m + 1) s = .next ((s.withDraws g s.trycnt rounds).commitVerdict rd v)
        ∧ (Nat.Prime (r.src rs1) → v = true ∧ rounds = s.rndcnt + BitVec.ofNat 32 m) := by
  induction m generalizing s r σ i with
  | zero =>
    have hexec := exec_isprime_of_primeLoop h.busy rd rs1 h.seeded h.progress
    rw [isprimePass_of_eq_iters s r rd _ σ (by omega)] at hexec
    exact ⟨s.rng, s.rndcnt, true, h.run_verdict hexec 0, fun _ => ⟨rfl, by simp⟩⟩
  | succ m ih =>
    have hexec := exec_isprime_of_primeLoop h.busy rd rs1 h.seeded h.progress
    have hi : i ≠ r.iters := by omega
    obtain ⟨-, hlo, hhi⟩ := drawWitness_spec Config.generator σ hn
    cases hv : mrRound (r.src rs1) sh odd (drawWitness Config.generator σ (r.src rs1)).1 with
    | composite =>
      rw [isprimePass_of_composite s r rd _ σ hi hv] at hexec
      refine ⟨_, _, false, h.run_verdict hexec (m + 1), fun hp => ?_⟩
      cases hv.symm.trans (mrRound_eq_inconclusive_of_prime hp hn hdec (by omega) (by omega))
    | inconclusive =>
      rw [isprimePass_of_inconclusive s r rd _ σ hi hv] at hexec
      obtain ⟨g, rounds, v, hrun, hprime⟩ :=
        ih (h.setProgress rfl (.primeLoop sh odd (i + 1)) s.trycnt (s.rndcnt + 1#32))
          (show i + 1 + m = r.iters by omega) hn hdec
      refine ⟨g, rounds, v, (h.run_succ hexec (m + 1)).trans hrun, fun hp => ?_⟩
      obtain ⟨rfl, rfl⟩ := hprime hp
      exact ⟨rfl, by rw [Nat.add_comm m 1, BitVec.ofNat_add, ← BitVec.add_assoc]; rfl⟩

/-- ISPRIME with a seeded generator ends within `iters + 2` micro-steps with a verdict; for a prime the verdict is 1,
and above 3 all rounds are run (44_isprime.md R160, R164). -/
theorem run_of_start (h : s.RunsIsprime r rd rs1 σ .start) :
    ∃ (g : Rng) (rounds : Word) (v : Bool),
      Sys2Proof.core.run (r.iters + 2) s = .next ((s.withDraws g s.trycnt rounds).commitVerdict rd v)
        ∧ (Nat.Prime (r.src rs1) → v = true ∧ (4 ≤ r.src rs1 → rounds = s.rndcnt + BitVec.ofNat 32 r.iters)) := by
  have hexec := exec_isprime_of_start h.busy rd rs1 h.seeded h.progress
  by_cases hn : 4 ≤ r.src rs1
  · rw [isprimeFirst_of_four_le s r rd hn] at hexec
    obtain ⟨hdec, -⟩ := decompose_spec (r.src rs1 - 1) (by omega)
    obtain ⟨g, rounds, v, hrun, hprime⟩ :=
      (h.setProgress h.seeded _ s.trycnt s.rndcnt).run_rounds (Nat.zero_add r.iters) hn hdec
    exact ⟨g, rounds, v, (h.run_succ hexec (r.iters + 1)).trans hrun,
      fun hp => (hprime hp).imp_right fun hrounds _ => hrounds⟩
  · rw [isprimeFirst_of_le_three s r rd (by omega)] at hexec
    exact ⟨s.rng, s.rndcnt, _, h.run_verdict hexec (r.iters + 1),
      fun hp => ⟨decide_eq_true hp.two_le, fun hge => absurd hge hn⟩⟩

end State.RunsIsprime

/-- Acceptance of ISPRIME with a seeded generator begins a run of it (60_exceptions.md R201). -/
theorem State.runsIsprime_accept {s : State} {cw : Word} {rd rs1 : Reg} {σ : Config.RngState} (he : s.env.events = [])
    (hd : decode cw = .ok (.isprime rd rs1)) (hσ : s.rng = .seeded σ) :
    (s.accept cw).RunsIsprime (s.latch cw) rd rs1 σ .start :=
  ⟨he, rfl, rfl, hd, rfl, hσ⟩

/-- Settles O48: without a seed the first micro-step raises NOSEED; with one the run ends with a verdict. -/
theorem isprimeCompletesWithinItsRounds : Obligations.IsprimeCompletesWithinItsRounds := by
  intro s cw rd rs1 he hd
  cases hσ : s.rng with
  | unseeded =>
    have hexec := exec_isprime_of_unseeded (s := s.accept cw) rfl rd rs1 hσ
    exact ⟨1, _, by omega, run_exec (s := s.accept cw) he rfl rfl hd hexec 0, rfl, rfl, .inr rfl⟩
  | seeded σ =>
    obtain ⟨g, rounds, v, hrun, -⟩ := (State.runsIsprime_accept he hd hσ).run_of_start
    exact ⟨_, _, le_rfl, hrun, rfl, rfl, .inl rfl⟩

/-- Settles O49: the run ends with the verdict 1, since no round on a prime proves it composite. -/
theorem primesAlwaysPassIsprime : Obligations.PrimesAlwaysPassIsprime := by
  intro s cw rd rs1 he hd hseeded hp
  obtain ⟨σ, hσ⟩ := Rng.exists_of_isSeeded hseeded
  have hsrc : (s.latch cw).src rs1 = s.readReg rs1 :=
    Running.src_of_snapshot (s.latch_snapshot cw) hd (by simp [Instr.sources])
  have hzero : (s.accept cw).rndcnt = 0#32 := if_pos (clearsRounds_of_isprime hd)
  obtain ⟨g, rounds, v, hrun, hprime⟩ := (State.runsIsprime_accept he hd hσ).run_of_start
  rw [hsrc, hzero] at hprime
  obtain ⟨rfl, hrounds⟩ := hprime hp
  refine ⟨_, hrun, rfl, rfl, State.readReg_commitVerdict_same _ rd true, rfl, fun hn => ?_, fun ρ hρ => ?_⟩
  · exact (hrounds hn).trans (by simp [Running.iters])
  · exact (State.readReg_commitVerdict _ rd ρ true).trans (if_neg hρ)

end Sys2Proof.Machine
end

section
/-! PROOF. MAKEPRIME (45_makeprime.md R170 to R173): its candidates, its micro-steps while Busy, once as an equation for
each case, and the statements about one micro-step. -/

namespace Sys2Proof.Machine

/-! Candidates and arguments. -/

/-- A candidate takes every bit from the draw but the two that are forced (45_makeprime.md R171). -/
theorem testBit_candidateOf (bits v b : Nat) :
    (candidateOf bits v).testBit b = (v.testBit b || decide (b = bits - 1) || decide (b = 0)) := by
  have hone : Nat.testBit 1 b = decide (0 = b) := Nat.testBit_two_pow (n := 0)
  simp [candidateOf, Nat.testBit_or, Nat.testBit_two_pow, hone, eq_comm]

/-- Settles O50: the forced top bit is an even number below the odd candidate. -/
theorem candidateForcesTopAndLowBit : Obligations.CandidateForcesTopAndLowBit := by
  intro bits v hbits hv
  obtain ⟨htop, hodd⟩ := candidateOf_bounds bits v
  have hlt := candidateOf_lt bits v (by omega) hv
  have heven : 2 ^ (bits - 1) % 2 = 0 := Nat.mod_eq_zero_of_dvd (dvd_pow_self 2 (by omega))
  exact ⟨by omega, by omega, testBit_candidateOf bits v⟩

theorem Running.primeBits_eq (r : Running) : r.primeBits = r.arg.toNat % 2 ^ 16 := by
  rw [Running.primeBits, BitVec.extractLsb'_toNat, Nat.shiftRight_zero]

theorem Running.primeIters_eq (r : Running) : r.primeIters = r.arg.toNat / 2 ^ 16 := by
  have hlt : r.arg.toNat < 2 ^ 32 := r.arg.isLt
  rw [Running.primeIters, BitVec.extractLsb'_toNat, Nat.shiftRight_eq_div_pow, Nat.mod_eq_of_lt (by omega)]

/-! The three kinds of micro-step. -/

section
variable (g : Config.Generator) (rd : Reg) (r : Running) (σ : Config.RngState) (s : State)

theorem makeprimeFirst_of_bad (h : r.primeBits < 2 ∨ s.width < r.primeBits) :
    makeprimeFirst r s = s.raise .badArg := if_pos h

theorem makeprimeFirst_of_fits (h2 : 2 ≤ r.primeBits) (hw : r.primeBits ≤ s.width) :
    makeprimeFirst r s = s.setProgress r (.candidate 0) := if_neg (by omega)

theorem makeprimeDraw_of_cap {t : Nat} (hm : r.maxtry ≠ 0#32) (ht : t = r.maxtry.toNat) :
    makeprimeDraw g rd r σ t s = s.raise .noPrime := if_pos ⟨hm, ht⟩

variable {t c sh odd i v : Nat} {σ' : Config.RngState}

/-- A candidate that needs no round, or of which none is asked, is the result at once (45_makeprime.md R170). -/
theorem makeprimeDraw_of_no_round (hcap : r.maxtry = 0#32 ∨ t ≠ r.maxtry.toNat)
    (hdraw : drawB g σ r.primeBits = (v, σ')) (hc : candidateOf r.primeBits v = 3 ∨ r.primeIters = 0) :
    makeprimeDraw g rd r σ t s
      = (s.withDraws (.seeded σ') (BitVec.ofNat 32 (t + 1)) s.rndcnt).commitReg rd (candidateOf r.primeBits v) := by
  rw [makeprimeDraw, if_neg (by tauto), hdraw]
  exact if_pos (.inr hc)

/-- Any other candidate goes to its rounds; it is odd, so it is not 2 (45_makeprime.md R170, R171). -/
theorem makeprimeDraw_of_rounds (hcap : r.maxtry = 0#32 ∨ t ≠ r.maxtry.toNat)
    (hdraw : drawB g σ r.primeBits = (v, σ')) (hc : candidateOf r.primeBits v ≠ 3) (hi : 0 < r.primeIters) :
    makeprimeDraw g rd r σ t s
      = (s.withDraws (.seeded σ') (BitVec.ofNat 32 (t + 1)) s.rndcnt).setProgress r
          (.candidateRound (t + 1) (candidateOf r.primeBits v) (decompose (candidateOf r.primeBits v - 1)).1
            (decompose (candidateOf r.primeBits v - 1)).2 0) := by
  have hodd := (candidateOf_bounds r.primeBits v).2
  rw [makeprimeDraw, if_neg (by tauto), hdraw]
  have hrounds : ¬ (candidateOf r.primeBits v = 2 ∨ candidateOf r.primeBits v = 3 ∨ r.primeIters = 0) := by omega
  exact if_neg hrounds

theorem makeprimeRound_of_composite (h : mrRound c sh odd (drawWitness g σ c).1 = .composite) :
    makeprimeRound g rd r σ t c sh odd i s
      = (s.withDraws (.seeded (drawWitness g σ c).2) s.trycnt (s.rndcnt + 1#32)).setProgress r (.candidate t) := by
  simp only [makeprimeRound, h]
  rfl

theorem makeprimeRound_of_next (h : mrRound c sh odd (drawWitness g σ c).1 = .inconclusive)
    (hi : i + 1 < r.primeIters) :
    makeprimeRound g rd r σ t c sh odd i s
      = (s.withDraws (.seeded (drawWitness g σ c).2) s.trycnt (s.rndcnt + 1#32)).setProgress r
          (.candidateRound t c sh odd (i + 1)) := by
  simp only [makeprimeRound, h, if_pos hi]
  rfl

theorem makeprimeRound_of_last (h : mrRound c sh odd (drawWitness g σ c).1 = .inconclusive)
    (hi : r.primeIters ≤ i + 1) :
    makeprimeRound g rd r σ t c sh odd i s
      = (s.withDraws (.seeded (drawWitness g σ c).2) s.trycnt (s.rndcnt + 1#32)).commitReg rd c := by
  simp only [makeprimeRound, h, if_neg (not_lt.mpr hi)]
  rfl

end

section
variable {s : State} {r : Running} (hb : s.ctl = .busy r) (g : Config.Generator) (rd : Reg) {σ : Config.RngState}
include hb

theorem makeprimeStep_of_unseeded (hrng : s.rng = .unseeded) : makeprimeStep g rd s = .next (s.raise .noSeed) :=
  (State.whileBusy_busy hb _).trans (by simp only [hrng])

theorem makeprimeStep_of_start (hrng : s.rng = .seeded σ) (hp : r.progress = .start) :
    makeprimeStep g rd s = .next (makeprimeFirst r s) :=
  (State.whileBusy_busy hb _).trans (by simp only [hrng, hp])

theorem makeprimeStep_of_candidate {t : Nat} (hrng : s.rng = .seeded σ) (hp : r.progress = .candidate t) :
    makeprimeStep g rd s = .next (makeprimeDraw g rd r σ t s) :=
  (State.whileBusy_busy hb _).trans (by simp only [hrng, hp])

theorem makeprimeStep_of_candidateRound {t c sh odd i : Nat} (hrng : s.rng = .seeded σ)
    (hp : r.progress = .candidateRound t c sh odd i) :
    makeprimeStep g rd s = .next (makeprimeRound g rd r σ t c sh odd i s) :=
  (State.whileBusy_busy hb _).trans (by simp only [hrng, hp])

end

/-- The command draws from the generator of the device (41_random.md R130). -/
theorem exec_makeprime (rd : Reg) (s : State) : exec (.makeprime rd) s = makeprimeStep Config.generator rd s := rfl

/-! One micro-step (45_makeprime.md R170 to R173). -/

/-- A commit after draws writes `x[rd]` and no other result but the counters. -/
theorem ResultsKept.commitReg_withDraws (s : State) (g : Rng) (tries rounds : Word) (rd : Reg) (v : Nat) :
    ResultsKept s
      { (s.withDraws g tries rounds).commitReg rd v with trycnt := s.trycnt, rndcnt := s.rndcnt } [rd] :=
  ((ResultsKept.setRng s g [rd]).writeReg (by simp) v).complete .ok

theorem State.readReg_commitReg_same (s : State) (rd : Reg) (v : Nat) : (s.commitReg rd v).readReg rd = v := by
  rw [State.readReg_commitReg, if_pos rfl]

/-- Settles O51: NOSEED is tested first, then the length, and a length that fits begins the search. -/
theorem makeprimeFirstStepChecksItsArgument : Obligations.MakeprimeFirstStepChecksItsArgument := by
  refine ⟨encodedAs_of_decode, fun s r rd hb hp => ?_⟩
  simp only [← r.primeBits_eq]
  refine ⟨fun hrng => ?_, fun hseeded hbad => ?_, fun hseeded h2 hw => ?_⟩
  · exact raises_of_exec (makeprimeStep_of_unseeded hb _ rd hrng)
  · obtain ⟨σ, hσ⟩ := Rng.exists_of_isSeeded hseeded
    have hexec := (exec_makeprime rd s).trans (makeprimeStep_of_start hb _ rd hσ hp)
    rw [makeprimeFirst_of_bad r s hbad] at hexec
    exact raises_of_exec hexec
  · obtain ⟨σ, hσ⟩ := Rng.exists_of_isSeeded hseeded
    have hexec := (exec_makeprime rd s).trans (makeprimeStep_of_start hb _ rd hσ hp)
    rw [makeprimeFirst_of_fits r s h2 hw] at hexec
    exact ⟨_, hexec, s.goesOn_withDraws s.rng s.trycnt s.rndcnt r _, rfl, rfl, rfl⟩

/-- Settles O52: the cap is tested first; a draw below it is committed at once, or decomposed for its rounds. -/
theorem makeprimeDrawsOneCandidate : Obligations.MakeprimeDrawsOneCandidate := by
  intro s r rd σ n hb hp hσ hbits
  simp only [← r.primeBits_eq, ← r.primeIters_eq] at hbits ⊢
  have hexec := (exec_makeprime rd s).trans (makeprimeStep_of_candidate hb _ rd hσ hp)
  refine ⟨fun hm hn => ?_, fun hcap => ?_⟩
  · rw [makeprimeDraw_of_cap _ rd r σ s hm hn] at hexec
    exact raises_of_exec hexec
  · obtain ⟨v, σ', hdraw⟩ : ∃ v σ', drawB Config.generator σ r.primeBits = (v, σ') := ⟨_, _, rfl⟩
    by_cases hc : candidateOf r.primeBits v = 3 ∨ r.primeIters = 0
    · rw [makeprimeDraw_of_no_round _ rd r σ s hcap hdraw hc] at hexec
      refine ⟨_, v, _, σ', hdraw, rfl, hexec, rfl, rfl, rfl, fun _ => ?_, fun h3 hi => by omega⟩
      exact ⟨(commandStep_of_exec hb hexec).ended rfl, State.readReg_commitReg_same _ rd _,
        ResultsKept.commitReg_withDraws s _ _ _ rd _⟩
    · obtain ⟨h3, hi⟩ := not_or.mp hc
      rw [makeprimeDraw_of_rounds _ rd r σ s hcap hdraw h3 (Nat.pos_of_ne_zero hi)] at hexec
      refine ⟨_, v, _, σ', hdraw, rfl, hexec, rfl, rfl, rfl, fun h => absurd h hc, fun _ _ => ?_⟩
      have h5 := five_le_candidateOf hbits h3
      exact ⟨_, _, s.goesOn_withDraws _ _ _ r _, decompose_spec _ (by omega)⟩

/-- Settles O53: one witness is drawn, and its verdict and the number of rounds left decide. -/
theorem makeprimeRunsOneRound : Obligations.MakeprimeRunsOneRound := by
  intro s r rd σ n c sh odd i hb hp hσ hc
  simp only [← r.primeIters_eq]
  have hexec := (exec_makeprime rd s).trans (makeprimeStep_of_candidateRound hb _ rd hσ hp)
  obtain ⟨hdraw, hlo, hhi⟩ := drawWitness_spec Config.generator σ hc
  cases hv : mrRound c sh odd (drawWitness Config.generator σ c).1 with
  | composite =>
    rw [makeprimeRound_of_composite _ rd r σ s hv] at hexec
    refine ⟨_, _, _, hdraw, hlo, hhi, hexec, rfl, rfl, rfl, fun _ => s.goesOn_withDraws _ _ _ r _, ?_, ?_⟩
    all_goals simp [hv]
  | inconclusive =>
    by_cases hi : i + 1 < r.primeIters
    · rw [makeprimeRound_of_next _ rd r σ s hv hi] at hexec
      refine ⟨_, _, _, hdraw, hlo, hhi, hexec, rfl, rfl, rfl, by simp [hv],
        fun _ _ => s.goesOn_withDraws _ _ _ r _, fun _ hle => by omega⟩
    · rw [makeprimeRound_of_last _ rd r σ s hv (not_lt.mp hi)] at hexec
      refine ⟨_, _, _, hdraw, hlo, hhi, hexec, rfl, rfl, rfl, by simp [hv], fun _ hlt => absurd hlt hi,
        fun _ _ => ?_⟩
      exact ⟨(commandStep_of_exec hb hexec).ended rfl, State.readReg_commitReg_same _ rd c,
        ResultsKept.commitReg_withDraws s _ _ _ rd c⟩

end Sys2Proof.Machine
end

section
/-! PROOF. The search of MAKEPRIME (45_makeprime.md R174, R175): what it may commit, why it ends when it is capped, and a
run without a cap that never ends. -/

namespace Sys2Proof.Machine

/-! What is committed (45_makeprime.md R174). -/

/-- An odd value of `bits` bits. -/
def OddOfLength (bits c : Nat) : Prop := c % 2 = 1 ∧ bitlen c = bits

theorem OddOfLength.bounds {bits c : Nat} (h : OddOfLength bits c) :
    c % 2 = 1 ∧ 2 ^ (bits - 1) ≤ c ∧ c < 2 ^ bits := by
  obtain ⟨hodd, rfl⟩ := h
  have hpos := (bitlen_pos_iff c).mpr (by omega)
  exact ⟨hodd, two_pow_le_of_lt_bitlen (by omega), lt_two_pow_bitlen c⟩

theorem oddOfLength_candidateOf {bits v : Nat} (hb : 0 < bits) (hv : v < 2 ^ bits) :
    OddOfLength bits (candidateOf bits v) :=
  ⟨(candidateOf_bounds bits v).2, bitlen_candidateOf bits v hb hv⟩

section
variable {s : State} {r : Running} {rd : Reg} (g : Config.Generator) (σ : Config.RngState)

/-- The checks commit nothing: they raise BADARG or begin the search. -/
theorem makeprimeFirst_not_ok (hi : (makeprimeFirst r s).ctl = .idle) : (makeprimeFirst r s).status.err ≠ .ok := by
  by_cases hbad : r.primeBits < 2 ∨ s.width < r.primeBits
  · rw [makeprimeFirst_of_bad r s hbad]
    exact fun h => nomatch h
  · rw [makeprimeFirst_of_fits r s (by omega) (by omega)] at hi
    cases hi

theorem makeprimeDraw_commits {t : Nat} (h2 : 2 ≤ r.primeBits) (hi : (makeprimeDraw g rd r σ t s).ctl = .idle)
    (hok : (makeprimeDraw g rd r σ t s).status.err = .ok) :
    OddOfLength r.primeBits ((makeprimeDraw g rd r σ t s).readReg rd) := by
  by_cases hcap : r.maxtry = 0#32 ∨ t ≠ r.maxtry.toNat
  · by_cases hc : candidateOf r.primeBits (drawB g σ r.primeBits).1 = 3 ∨ r.primeIters = 0
    · rw [makeprimeDraw_of_no_round g rd r σ s hcap rfl hc, State.readReg_commitReg_same]
      exact oddOfLength_candidateOf (by omega) (drawB_lt g σ _)
    · obtain ⟨h3, hiters⟩ := not_or.mp hc
      rw [makeprimeDraw_of_rounds g rd r σ s hcap rfl h3 (Nat.pos_of_ne_zero hiters)] at hi
      cases hi
  · obtain ⟨hm, ht⟩ := not_or.mp hcap
    rw [makeprimeDraw_of_cap g rd r σ s hm (not_not.mp ht)] at hok
    cases hok

theorem makeprimeRound_commits {t c sh odd i : Nat} (hc : OddOfLength r.primeBits c)
    (hi : (makeprimeRound g rd r σ t c sh odd i s).ctl = .idle) :
    OddOfLength r.primeBits ((makeprimeRound g rd r σ t c sh odd i s).readReg rd) := by
  cases hv : mrRound c sh odd (drawWitness g σ c).1 with
  | composite =>
    rw [makeprimeRound_of_composite g rd r σ s hv] at hi
    cases hi
  | inconclusive =>
    by_cases hlt : i + 1 < r.primeIters
    · rw [makeprimeRound_of_next g rd r σ s hv hlt] at hi
      cases hi
    · rwa [makeprimeRound_of_last g rd r σ s hv (not_lt.mp hlt), State.readReg_commitReg_same]

end

/-- Settles O54: a search commits only its candidate, which the invariant says is odd and of the length asked for. -/
theorem makeprimeResultIsOddOfExactLength : Obligations.MakeprimeResultIsOddOfExactLength := by
  intro s t r rd hinv hb hd hexec hi hok
  rw [← r.primeBits_eq]
  have hfits := (hinv.busy_inv r hb).progress_fits
  cases hrng : s.rng with
  | unseeded =>
    cases (makeprimeStep_of_unseeded hb _ rd hrng).symm.trans hexec
    cases hok
  | seeded σ =>
    unfold State.ProgressFits at hfits
    split at hfits
    · next hp =>
      cases (makeprimeStep_of_start hb _ rd hrng hp).symm.trans hexec
      exact absurd hok (makeprimeFirst_not_ok hi)
    · obtain ⟨_, _, hd', _⟩ := hfits
      cases hd.symm.trans hd'
    · next hp =>
      obtain ⟨_, _, _, h2, _⟩ := hfits
      cases (makeprimeStep_of_candidate hb _ rd hrng hp).symm.trans hexec
      exact (makeprimeDraw_commits _ σ h2 hi hok).bounds
    · next hp =>
      obtain ⟨_, _, _, _, _, _, _, _, _, hodd, hlen, _⟩ := hfits
      cases (makeprimeStep_of_candidateRound hb _ rd hrng hp).symm.trans hexec
      exact (makeprimeRound_commits _ σ ⟨hodd, hlen⟩ hi).bounds

/-! A capped search (45_makeprime.md R175). -/

/-- How far a search with the cap `cap` and `iters` rounds for each candidate has come when it stands at a progress: the
candidates drawn, and the most rounds that can have started. -/
inductive SearchedTo (cap iters : Nat) : Progress → (tries rounds : Nat) → Prop
  | candidate {t : Nat} (ht : t ≤ cap) : SearchedTo cap iters (.candidate t) t (t * iters)
  | candidateRound {u c sh odd i : Nat} (hu : u < cap) (hi : i < iters) :
      SearchedTo cap iters (.candidateRound (u + 1) c sh odd i) (u + 1) (u * iters + i)

theorem SearchedTo.le {cap iters tries rounds : Nat} {p : Progress} (h : SearchedTo cap iters p tries rounds) :
    tries ≤ cap ∧ rounds ≤ cap * iters := by
  cases h with
  | candidate ht => exact ⟨ht, Nat.mul_le_mul_right iters ht⟩
  | @candidateRound u _ _ _ i hu hi =>
    have hrounds : (u + 1) * iters ≤ cap * iters := Nat.mul_le_mul_right iters hu
    rw [Nat.succ_mul] at hrounds
    exact ⟨hu, by omega⟩

/-- The counters show at most `tries` candidates and `rounds` rounds (10_state.md R36, R37). -/
def State.CountsWithin (s : State) (tries rounds : Nat) : Prop := s.trycnt.toNat ≤ tries ∧ s.rndcnt.toNat ≤ rounds

theorem State.CountsWithin.mono {s : State} {a b c d : Nat} (h : s.CountsWithin a b) (hac : a ≤ c) (hbd : b ≤ d) :
    s.CountsWithin c d := ⟨h.1.trans hac, h.2.trans hbd⟩

theorem toNat_ofNat_le (w n : Nat) : (BitVec.ofNat w n).toNat ≤ n := by
  rw [BitVec.toNat_ofNat]
  exact Nat.mod_le _ _

theorem toNat_add_one_le (x : Word) : (x + 1#32).toNat ≤ x.toNat + 1 := by
  rw [BitVec.toNat_add]
  exact Nat.mod_le _ _

/-- `s` runs a capped search that has come as far as `tries` and `rounds` say; no abort is pending and no event is to
come. -/
structure State.Searches (s : State) (r : Running) (rd : Reg) (tries rounds : Nat) : Prop where
  events : s.env.events = []
  busy : s.ctl = .busy r
  no_abort : r.abortReq = false
  decoded : decode r.cw = .ok (.makeprime rd)
  seeded : s.rng.isSeeded = true
  capped : r.maxtry ≠ 0#32
  searched : SearchedTo r.maxtry.toNat r.primeIters r.progress tries rounds
  counts : s.CountsWithin tries rounds

/-- The command has ended within its candidates and its rounds (45_makeprime.md R175). -/
structure State.EndedWithin (t : State) (cap iters : Nat) : Prop where
  idle : t.ctl = .idle
  done : t.status.done = true
  counts : t.CountsWithin cap (cap * iters)

/-- What a micro-step of a capped search leaves: the search has ended within its bounds, or it has come further. -/
def AdvancesTo (r : Running) (rd : Reg) (tries rounds : Nat) (t : State) : Prop :=
  t.EndedWithin r.maxtry.toNat r.primeIters
    ∨ ∃ p tries' rounds', t.Searches { r with progress := p } rd tries' rounds'
      ∧ tries + rounds < tries' + rounds'

namespace State.Searches

variable {s : State} {r : Running} {rd : Reg} {tries rounds : Nat}

/-- The search goes on to a progress that lies further on. -/
theorem setProgress_advances (h : s.Searches r rd tries rounds) {p : Progress} {σ : Config.RngState} {tw nw : Word}
    {tries' rounds' : Nat} (hp : SearchedTo r.maxtry.toNat r.primeIters p tries' rounds')
    (hlt : tries + rounds < tries' + rounds') (htries : tw.toNat ≤ tries') (hrounds : nw.toNat ≤ rounds') :
    AdvancesTo r rd tries rounds ((s.withDraws (.seeded σ) tw nw).setProgress r p) :=
  .inr ⟨p, tries', rounds', ⟨h.events, rfl, h.no_abort, h.decoded, rfl, h.capped, hp, htries, hrounds⟩, hlt⟩

/-- A draw counts one candidate, or ends the search at the cap with no draw (45_makeprime.md R172). -/
theorem draw_advances {t : Nat} (h : s.Searches r rd tries rounds) (hp : r.progress = .candidate t)
    (g : Config.Generator) (σ : Config.RngState) : AdvancesTo r rd tries rounds (makeprimeDraw g rd r σ t s) := by
  have hsearched := h.searched
  have hcounts := h.counts
  rw [hp] at hsearched
  cases hsearched with
  | candidate ht =>
    by_cases hcap : tries = r.maxtry.toNat
    · rw [makeprimeDraw_of_cap g rd r σ s h.capped hcap]
      exact .inl ⟨rfl, rfl, hcounts.mono ht (Nat.mul_le_mul_right _ ht)⟩
    · have htry := toNat_ofNat_le 32 (tries + 1)
      by_cases hc : candidateOf r.primeBits (drawB g σ r.primeBits).1 = 3 ∨ r.primeIters = 0
      · rw [makeprimeDraw_of_no_round g rd r σ s (.inr hcap) rfl hc]
        exact .inl ⟨rfl, rfl, htry.trans (by omega), hcounts.2.trans (Nat.mul_le_mul_right _ ht)⟩
      · obtain ⟨h3, hiters⟩ := not_or.mp hc
        rw [makeprimeDraw_of_rounds g rd r σ s (.inr hcap) rfl h3 (Nat.pos_of_ne_zero hiters)]
        exact h.setProgress_advances (.candidateRound (by omega) (by omega)) (by omega) htry hcounts.2

/-- A round counts one round; a rejected candidate has no more of them (45_makeprime.md R170). -/
theorem round_advances {t c sh odd i : Nat} (h : s.Searches r rd tries rounds)
    (hp : r.progress = .candidateRound t c sh odd i) (g : Config.Generator) (σ : Config.RngState) :
    AdvancesTo r rd tries rounds (makeprimeRound g rd r σ t c sh odd i s) := by
  have hsearched := h.searched
  obtain ⟨htry, hrnd⟩ := h.counts
  rw [hp] at hsearched
  cases hsearched with
  | @candidateRound u _ _ _ _ hu hi =>
    have hadd := toNat_add_one_le s.rndcnt
    have hmul : (u + 1) * r.primeIters = u * r.primeIters + r.primeIters := Nat.succ_mul u r.primeIters
    cases hv : mrRound c sh odd (drawWitness g σ c).1 with
    | composite =>
      rw [makeprimeRound_of_composite g rd r σ s hv]
      exact h.setProgress_advances (.candidate hu) (by omega) htry (by omega)
    | inconclusive =>
      by_cases hlt : i + 1 < r.primeIters
      · rw [makeprimeRound_of_next g rd r σ s hv hlt]
        exact h.setProgress_advances (.candidateRound hu hlt) (by omega) htry (by omega)
      · rw [makeprimeRound_of_last g rd r σ s hv (not_lt.mp hlt)]
        have hcap : (u + 1) * r.primeIters ≤ r.maxtry.toNat * r.primeIters := Nat.mul_le_mul_right _ hu
        exact .inl ⟨rfl, rfl, htry.trans hu, hadd.trans (by omega)⟩

/-- A search stands at a draw or at a round, and both take it further. -/
theorem exec_advances (h : s.Searches r rd tries rounds) :
    ∃ t, exec (.makeprime rd) s = .next t ∧ AdvancesTo r rd tries rounds t := by
  obtain ⟨σ, hσ⟩ := Rng.exists_of_isSeeded h.seeded
  cases hp : r.progress with
  | candidate t => exact ⟨_, makeprimeStep_of_candidate h.busy _ rd hσ hp, h.draw_advances hp _ σ⟩
  | candidateRound t c sh odd i =>
    exact ⟨_, makeprimeStep_of_candidateRound h.busy _ rd hσ hp, h.round_advances hp _ σ⟩
  | _ =>
    have hsearched := h.searched
    rw [hp] at hsearched
    cases hsearched

/-- A search that is closer than `k` candidates and rounds to its end takes at most `k` micro-steps. -/
theorem run_ends {k : Nat} (h : s.Searches r rd tries rounds)
    (hk : r.maxtry.toNat + r.maxtry.toNat * r.primeIters < tries + rounds + k) :
    ∃ n t, n ≤ k ∧ Sys2Proof.core.run n s = .next t ∧ t.EndedWithin r.maxtry.toNat r.primeIters := by
  induction k generalizing s r tries rounds with
  | zero =>
    have hle := h.searched.le
    omega
  | succ k ih =>
    obtain ⟨t, hexec, hended | ⟨p, tries', rounds', hsearch, hlt⟩⟩ := h.exec_advances
    · exact ⟨1, t, by omega, run_exec h.events h.busy h.no_abort h.decoded hexec 0, hended⟩
    · have hk' : r.maxtry.toNat + r.maxtry.toNat * r.primeIters < tries' + rounds' + k := by omega
      obtain ⟨n, u, hn, hrun, hended⟩ := ih hsearch hk'
      exact ⟨n + 1, u, by omega, (run_exec h.events h.busy h.no_abort h.decoded hexec n).trans hrun, hended⟩

end State.Searches

/-- The first micro-step of a capped MAKEPRIME ends it or begins its search, with the counters at 0. -/
theorem makeprimeFirst_searches {s : State} {r : Running} {rd : Reg} {σ : Config.RngState} (he : s.env.events = [])
    (ha : r.abortReq = false) (hd : decode r.cw = .ok (.makeprime rd)) (hσ : s.rng = .seeded σ)
    (hm : r.maxtry ≠ 0#32) (hcounts : s.CountsWithin 0 0) :
    (makeprimeFirst r s).EndedWithin r.maxtry.toNat r.primeIters
      ∨ (makeprimeFirst r s).Searches { r with progress := .candidate 0 } rd 0 (0 * r.primeIters) := by
  by_cases hbad : r.primeBits < 2 ∨ s.width < r.primeBits
  · rw [makeprimeFirst_of_bad r s hbad]
    exact .inl ⟨rfl, rfl, hcounts.mono (Nat.zero_le _) (Nat.zero_le _)⟩
  · rw [makeprimeFirst_of_fits r s (by omega) (by omega)]
    exact .inr ⟨he, rfl, ha, hd, by rw [State.setProgress_rng, hσ]; rfl, hm, .candidate (Nat.zero_le _),
      hcounts.mono le_rfl (Nat.zero_le _)⟩

theorem clearsRounds_of_makeprime {cw : Word} {rd : Reg} (h : decode cw = .ok (.makeprime rd)) :
    clearsRounds cw = true := by
  simp [clearsRounds, opField_of_decode h, Instr.opcode]

/-- Acceptance of MAKEPRIME clears both counters (60_exceptions.md R201). -/
theorem countsWithin_accept_makeprime {cw : Word} {rd : Reg} (s : State) (h : decode cw = .ok (.makeprime rd)) :
    (s.accept cw).CountsWithin 0 0 := by
  simp [State.CountsWithin, clearsTries_of_makeprime h, clearsRounds_of_makeprime h]

/-- A capped MAKEPRIME has ended within one micro-step for its checks, one for each candidate and round, and one for
NOPRIME. -/
theorem run_makeprime {s : State} {cw : Word} {rd : Reg} (he : s.env.events = [])
    (hd : decode cw = .ok (.makeprime rd)) (hm : s.maxtry ≠ 0#32) :
    ∃ n t, n ≤ 2 + s.maxtry.toNat * (1 + (s.latch cw).primeIters) ∧ Sys2Proof.core.run n (s.accept cw) = .next t
      ∧ t.EndedWithin s.maxtry.toNat (s.latch cw).primeIters := by
  have hcounts := countsWithin_accept_makeprime s hd
  have hstep {t : State} (hx : exec (.makeprime rd) (s.accept cw) = .next t) :=
    run_exec (s := s.accept cw) he rfl rfl hd hx
  cases hrng : s.rng with
  | unseeded =>
    have hexec := makeprimeStep_of_unseeded (s := s.accept cw) rfl Config.generator rd hrng
    exact ⟨1, _, by omega, hstep hexec 0, rfl, rfl, hcounts.mono (Nat.zero_le _) (Nat.zero_le _)⟩
  | seeded σ =>
    have hexec := makeprimeStep_of_start (s := s.accept cw) rfl Config.generator rd hrng rfl
    obtain hended | hsearch := makeprimeFirst_searches (s := s.accept cw) (r := s.latch cw) he rfl hd hrng hm hcounts
    · exact ⟨1, _, by omega, hstep hexec 0, hended⟩
    · obtain ⟨n, t, hn, hrun, hended⟩ :=
        hsearch.run_ends (k := s.maxtry.toNat + s.maxtry.toNat * (s.latch cw).primeIters + 1)
          (Nat.lt_add_left _ (Nat.lt_succ_self _))
      refine ⟨n + 1, t, ?_, (hstep hexec n).trans hrun, hended⟩
      rw [Nat.mul_add, Nat.mul_one]
      omega

/-- Settles O55, from the run of a capped MAKEPRIME. -/
theorem cappedMakeprimeCompletes : Obligations.CappedMakeprimeCompletes := by
  intro s cw rd he hd hm
  obtain ⟨n, t, hn, hrun, hidle, hdone, htries, hrounds⟩ := run_makeprime he hd hm
  rw [Running.primeIters_eq] at hn hrounds
  exact ⟨n, t, hn, hrun, hidle, hdone, htries, hrounds⟩

/-! An uncapped search (45_makeprime.md R175, MKP-10 of 95_test_vectors.md). -/

/-- A generator that returns 0 for every draw. -/
def zeroGenerator : Config.Generator where
  seed _ := ⟨0⟩
  drawB σ _ := (0, σ)
  drawM σ _ := (0, σ)

theorem drawB_zeroGenerator (σ : Config.RngState) (bits : Nat) : drawB zeroGenerator σ bits = (0, σ) := by
  simp [drawB, zeroGenerator]

theorem drawWitness_zeroGenerator (σ : Config.RngState) (n : Nat) : drawWitness zeroGenerator σ n = (2, σ) := by
  simp [drawWitness, drawM, zeroGenerator]

/-- The witness 2 proves 9 composite. -/
theorem mrRound_nine_two : mrRound 9 3 1 2 = .composite := by decide +kernel

/-- Settles O56: with the draws always 0 the candidate is always 9 and the witness always 2, which rejects it. -/
theorem uncappedMakeprimeMayRunForEver : Obligations.UncappedMakeprimeMayRunForEver := by
  refine ⟨zeroGenerator, fun s r rd hb hseeded hbits hiters hm hp => ?_⟩
  obtain ⟨σ, hσ⟩ := Rng.exists_of_isSeeded hseeded
  obtain ⟨n, hp⟩ | ⟨n, hp⟩ := hp
  · have hstep := makeprimeStep_of_candidate hb zeroGenerator rd hσ hp
    have hnine : candidateOf r.primeBits 0 = 9 := by rw [hbits]; decide
    have hsplit : decompose (9 - 1) = (3, 1) := by decide +kernel
    rw [makeprimeDraw_of_rounds _ rd r σ s (.inl hm) (drawB_zeroGenerator σ _) (by rw [hnine]; decide) hiters, hnine,
      hsplit] at hstep
    exact ⟨_, _, hstep, rfl, rfl, .inr ⟨n + 1, rfl⟩⟩
  · have hstep := makeprimeStep_of_candidateRound hb zeroGenerator rd hσ hp
    have hv : mrRound 9 3 1 (drawWitness zeroGenerator σ 9).1 = .composite := by
      rw [drawWitness_zeroGenerator, mrRound_nine_two]
    rw [makeprimeRound_of_composite _ rd r σ s hv] at hstep
    exact ⟨_, _, hstep, rfl, rfl, .inl ⟨n, rfl⟩⟩

end Sys2Proof.Machine
end

section
/-! PROOF. The SS block wrapper (46_cipher.md): the micro-step of BLKSZ, ENCRYPT and DECRYPT while Busy, once as an equation
per case, the bytes of an export (00_scope.md R9), the round trip of the cryptosystem (R184), and the statements read off
them. -/

namespace Sys2Proof.Machine

/-! One micro-step of each command. -/

/-- BYTES is W / 8 (00_scope.md R7). -/
theorem State.bytes_eq (s : State) : s.bytes = s.width / 8 := by
  simp only [State.bytes, State.width, Config.Params.bytes, Config.Params.width]
  omega

section
variable {s : State} {r : Running} (hb : s.ctl = .busy r)
include hb

theorem exec_blksz_of_zero (rd : Reg) {rs1 : Reg} (h : r.src rs1 = 0) :
    exec (.blksz rd rs1) s = .next (s.raise .badArg) :=
  (State.whileBusy_busy hb _).trans (if_pos ((bitlen_eq_zero_iff _).mpr h))

theorem exec_blksz_of_pos (rd : Reg) {rs1 : Reg} (h : 0 < r.src rs1) :
    exec (.blksz rd rs1) s = .next (s.commitReg rd ((bitlen (r.src rs1) - 1) / 8)) :=
  (State.whileBusy_busy hb _).trans (if_neg ((bitlen_pos_iff _).mpr h).ne')

/-- The two argument checks of ENCRYPT: the length, then the payload (46_cipher.md R182). -/
theorem exec_encrypt_of_badArg (rd : Reg) {rs1 : Reg} (rs2 : Reg)
    (h : s.width / 8 - 1 < r.arg.toNat ∨ 2 ^ (8 * r.arg.toNat) ≤ r.src rs1) :
    exec (.encrypt rd rs1 rs2) s = .next (s.raise .badArg) := by
  rw [← s.bytes_eq] at h
  refine (State.whileBusy_busy hb _).trans ?_
  by_cases hlen : s.bytes - 1 < r.arg.toNat
  · exact if_pos hlen
  · exact (if_neg hlen).trans (if_pos (h.resolve_left hlen))

theorem exec_encrypt_of_fits (rd : Reg) {rs1 : Reg} (rs2 : Reg) (hlen : r.arg.toNat ≤ s.width / 8 - 1)
    (hpay : r.src rs1 < 2 ^ (8 * r.arg.toNat)) :
    exec (.encrypt rd rs1 rs2) s
      = if blockInt r.sentinel r.arg.toNat (r.src rs1) ≤ 1 then .next (s.raise .domain)
        else if r.src rs2 = 0 then .next (s.raise .divZero)
        else .next (s.commitReg rd (powmod (blockInt r.sentinel r.arg.toNat (r.src rs1)) (r.src rs2) (r.src rs2))) := by
  rw [← s.bytes_eq] at hlen
  exact (State.whileBusy_busy hb _).trans ((if_neg hlen.not_gt).trans (if_neg hpay.not_ge))

/-- The exponent and the modulus are both `x[rs2]` (46_cipher.md R182). -/
theorem exec_encrypt_of_pos (rd : Reg) {rs1 rs2 : Reg} (hlen : r.arg.toNat ≤ s.width / 8 - 1)
    (hpay : r.src rs1 < 2 ^ (8 * r.arg.toNat)) (hm : 2 ≤ blockInt r.sentinel r.arg.toNat (r.src rs1))
    (hn : 0 < r.src rs2) :
    exec (.encrypt rd rs1 rs2) s
      = .next (s.commitReg rd (blockInt r.sentinel r.arg.toNat (r.src rs1) ^ r.src rs2 % r.src rs2)) := by
  rw [exec_encrypt_of_fits hb rd rs2 hlen hpay, if_neg (by omega), if_neg hn.ne', powmod_eq _ _ _ hn]

theorem exec_decrypt_of_zero (rd rs1 rs2 : Reg) {rs3 : Reg} (h : r.src rs3 = 0) :
    exec (.decrypt rd rs1 rs2 rs3) s = .next (s.raise .divZero) :=
  (State.whileBusy_busy hb _).trans (if_pos h)

/-- There is no leading byte to drop from 0 (46_cipher.md R183). -/
theorem exec_decrypt_of_power_zero (rd : Reg) {rs1 rs2 rs3 : Reg} (h : 0 < r.src rs3)
    (hm : r.src rs1 ^ r.src rs2 % r.src rs3 = 0) :
    exec (.decrypt rd rs1 rs2 rs3) s = .next (s.raise .domain) :=
  (State.whileBusy_busy hb _).trans ((if_neg h.ne').trans (if_pos ((powmod_eq _ _ _ h).trans hm)))

theorem exec_decrypt_of_power_pos (rd : Reg) {rs1 rs2 rs3 : Reg} {m : Nat} (h : 0 < r.src rs3) (hpos : 0 < m)
    (hm : r.src rs1 ^ r.src rs2 % r.src rs3 = m) :
    exec (.decrypt rd rs1 rs2 rs3) s = .next (s.commitPayload rd m r.sentinel) := by
  rw [← powmod_eq _ _ _ h] at hm
  subst hm
  exact (State.whileBusy_busy hb _).trans ((if_neg h.ne').trans (if_neg hpos.ne'))

end

/-! The block size (46_cipher.md R180). -/

/-- A block of `(bitlen(M) - 1) / 8` bytes is the longest whose integers are all below `M`. -/
theorem blockSize_bounds {v : Nat} (hv : 0 < v) :
    2 ^ (8 * ((bitlen v - 1) / 8)) ≤ v ∧ v < 2 ^ (8 * ((bitlen v - 1) / 8 + 1)) := by
  have hpos := (bitlen_pos_iff v).mpr hv
  exact ⟨two_pow_le_of_lt_bitlen (by omega), (bitlen_le_iff v _).mp (by omega)⟩

/-- Settles O57: 0 has no bit length, and any other modulus lies between the powers of its block size. -/
theorem blkszIsTheBlockSize : Obligations.BlkszIsTheBlockSize :=
  ⟨encodedAs_of_decode, fun _ _ rd _ hb =>
    ⟨fun hz => raises_of_exec (exec_blksz_of_zero hb rd hz),
      fun hpos => ⟨_, commitsReg_of_exec (exec_blksz_of_pos hb rd hpos), rfl, blockSize_bounds hpos⟩⟩⟩

/-! ENCRYPT (46_cipher.md R182). -/

/-- Settles O58: each check is reached only where the ones before it pass, and the engine computes the power. -/
theorem encryptIsThePowerOfTheBlock : Obligations.EncryptIsThePowerOfTheBlock := by
  refine ⟨encodedAs_of_decode, ?_⟩
  rintro s r rd rs1 rs2 L P N m hb rfl rfl rfl rfl
  refine ⟨fun hlen => ?_, fun _ hpay => ?_, fun hlen hpay hm => ?_, fun hlen hpay hm hn => ?_,
    fun hlen hpay hm hn => ?_⟩
  · exact raises_of_exec (exec_encrypt_of_badArg hb rd rs2 (.inl hlen))
  · exact raises_of_exec (exec_encrypt_of_badArg hb rd rs2 (.inr hpay))
  · have hle := Nat.le_one_iff_eq_zero_or_eq_one.mpr hm
    exact raises_of_exec ((exec_encrypt_of_fits hb rd rs2 hlen hpay).trans (if_pos hle))
  · have hfits := exec_encrypt_of_fits hb rd rs2 hlen hpay
    exact raises_of_exec (hfits.trans ((if_neg (not_le.mpr hm)).trans (if_pos hn)))
  · exact commitsReg_of_exec (exec_encrypt_of_pos hb rd hlen hpay hm hn)

/-! Byte length and the export of a positive natural (00_scope.md R8, R9). -/

theorem two_pow_eight_mul (n : Nat) : 2 ^ (8 * n) = 256 ^ n := pow_mul 2 8 n

/-- `bytelen(v)` is the least number of bytes that hold `v`. -/
theorem bytelen_le_iff (v n : Nat) : bytelen v ≤ n ↔ v < 256 ^ n := by
  rw [← two_pow_eight_mul, ← bitlen_le_iff, bytelen]
  omega

theorem exists_bytelen_eq_succ {v : Nat} (h : 0 < v) : ∃ n, bytelen v = n + 1 :=
  Nat.exists_eq_succ_of_ne_zero fun h0 => by simpa [h.ne'] using (bytelen_le_iff v 0).mp h0.le

/-- A string shows only the low bytes of its value. -/
theorem toBytes_add_mul (n v a : Nat) : toBytes n (v + a * 256 ^ n) = toBytes n v := by
  induction n generalizing a with
  | zero => rfl
  | succ n ih =>
    have hval : v + a * 256 ^ (n + 1) = v + a * 256 * 256 ^ n := by ring
    have hhead : BitVec.ofNat 8 (v / 256 ^ n + a * 256) = BitVec.ofNat 8 (v / 256 ^ n) :=
      BitVec.eq_of_toNat_eq (by simp)
    rw [hval, toBytes, toBytes, Nat.add_mul_div_right _ _ (Nat.pow_pos (by decide)), ih, hhead]

theorem toBytes_mod (n v : Nat) : toBytes n (v % 256 ^ n) = toBytes n v := by
  conv_rhs => rw [← Nat.mod_add_div' v (256 ^ n), toBytes_add_mul]

section
variable {m n : Nat} (h : bytelen m = n + 1)
include h

theorem leadByte_eq : leadByte m = m / 256 ^ n := by
  rw [leadByte, h, Nat.add_sub_cancel, two_pow_eight_mul]

theorem payloadOf_eq : payloadOf m = m % 256 ^ n := by
  rw [payloadOf, h, Nat.add_sub_cancel, two_pow_eight_mul]

theorem leadByte_lt : leadByte m < 256 := by
  have hlt := (bytelen_le_iff m (n + 1)).mp h.le
  rw [leadByte_eq h]
  exact Nat.div_lt_of_lt_mul (by rwa [pow_succ] at hlt)

theorem leadByte_pos : 0 < leadByte m := by
  have hle : 256 ^ n ≤ m := not_lt.mp fun hlt => by
    have := (bytelen_le_iff m n).mpr hlt
    omega
  rw [leadByte_eq h]
  exact Nat.div_pos hle (Nat.pow_pos (by decide))

theorem toNat_leadByte : (BitVec.ofNat 8 (leadByte m)).toNat = leadByte m :=
  (BitVec.toNat_ofNat _ _).trans (Nat.mod_eq_of_lt (leadByte_lt h))

/-- An export is its leading byte and then the bytes that DECRYPT commits (46_cipher.md R183). -/
theorem exportBytes_eq_cons : exportBytes m = BitVec.ofNat 8 (leadByte m) :: toBytes n m := by
  rw [exportBytes, h, toBytes, leadByte_eq h]

end

theorem ofBytes_exportBytes (m : Nat) : ofBytes (exportBytes m) = m := by
  rw [exportBytes, ofBytes_toBytes, Nat.mod_eq_of_lt ((bytelen_le_iff m _).mp le_rfl)]

/-! DECRYPT (46_cipher.md R183). -/

/-- DECRYPT writes one register, RESLEN and SM. -/
theorem resultsKept_commitPayload (s : State) (rd : Reg) (m : Nat) (b : Byte) :
    ResultsKept s { s.commitPayload rd m b with
      status := { (s.commitPayload rd m b).status with sm := s.status.sm }, reslen := s.reslen } [rd] :=
  { ((ResultsKept.refl s [rd]).writeReg (by simp) (payloadOf m)).complete .ok with }

/-- Settles O59: the committed value and length are those of the export after its leading byte, which is not 0. -/
theorem decryptDropsTheLeadingByte : Obligations.DecryptDropsTheLeadingByte := by
  refine ⟨encodedAs_of_decode, ?_⟩
  rintro s r rd rs1 rs2 rs3 m hb hm
  refine ⟨fun hz => raises_of_exec (exec_decrypt_of_zero hb rd rs1 rs2 hz),
    fun hpos h0 => raises_of_exec (exec_decrypt_of_power_zero hb rd hpos (hm.symm.trans h0)), fun hpos hm0 => ?_⟩
  obtain ⟨n, hn⟩ := exists_bytelen_eq_succ hm0
  have hexport := exportBytes_eq_cons hn
  have hexec := exec_decrypt_of_power_pos hb rd hpos hm0 hm.symm
  have hreg : (s.commitPayload rd m r.sentinel).readReg rd = m % 256 ^ n := by
    rw [State.readReg_commitPayload, if_pos rfl, payloadOf_eq hn]
  refine ⟨_, _, _, hexport, hexport ▸ ofBytes_exportBytes m, fun hlead => ?_, hexec,
    (commandStep_of_exec hb hexec).ended rfl, ?_, ?_, ?_, ?_, resultsKept_commitPayload s rd m r.sentinel, rfl⟩
  · have hzero := toNat_leadByte hn
    rw [hlead] at hzero
    exact (leadByte_pos hn).ne hzero
  · rw [hreg, ofBytes_toBytes]
  · rw [hreg, length_toBytes, toBytes_mod]
  · rw [State.commitPayload_reslen, length_toBytes, hn, Nat.add_sub_cancel]
  · rw [State.commitPayload_status, ← BitVec.toNat_ne_iff_ne, toNat_leadByte hn]
    exact decide_eq_true_iff

/-! The round trip (46_cipher.md R184). -/

/-- Modulo a prime an exponent of 1 modulo `p - 1` does nothing, to a multiple of `p` as well. -/
theorem pow_modEq_self {p e : Nat} (hp : p.Prime) (he : 0 < e) (h : e ≡ 1 [MOD p - 1]) (m : Nat) :
    m ^ e ≡ m [MOD p] := by
  by_cases hdvd : p ∣ m
  · exact (Nat.modEq_zero_iff_dvd.mpr (dvd_pow hdvd he.ne')).trans (Nat.modEq_zero_iff_dvd.mpr hdvd).symm
  · obtain ⟨k, hk⟩ := (Nat.modEq_iff_dvd' he).mp h.symm
    have hfermat := Nat.ModEq.pow_card_sub_one_eq_one hp ((hp.coprime_iff_not_dvd.mpr hdvd).symm)
    calc m ^ e = (m ^ (p - 1)) ^ k * m := by rw [← pow_mul, ← hk, ← pow_succ, Nat.sub_add_cancel he]
      _ ≡ 1 ^ k * m [MOD p] := (hfermat.pow k).mul_right m
      _ = m := by rw [one_pow, one_mul]

section
variable {p q d : Nat} (hp : p.Prime) (hq : q.Prime) (hne : p ≠ q)
  (hd : modInverse (p ^ 2 * q) (Nat.lcm (p - 1) (q - 1)) = some d)
include hp hq hne hd

/-- The two exponents of a key undo each other modulo `lcm(p - 1, q - 1)`, and their product is not 0. -/
theorem exponents_mul_pos_and_modEq_one : 0 < p ^ 2 * q * d ∧ p ^ 2 * q * d ≡ 1 [MOD Nat.lcm (p - 1) (q - 1)] := by
  have hp2 := hp.two_le
  have hq2 := hq.two_le
  have hpos : 0 < Nat.lcm (p - 1) (q - 1) := Nat.lcm_pos (by omega) (by omega)
  have hple := Nat.le_of_dvd hpos (Nat.dvd_lcm_left (p - 1) (q - 1))
  have hqle := Nat.le_of_dvd hpos (Nat.dvd_lcm_right (p - 1) (q - 1))
  obtain ⟨-, hinv⟩ := modInverse_eq_some _ _ d hpos hd
  refine ⟨Nat.pos_of_ne_zero fun h0 => ?_, hinv⟩
  rw [h0, Nat.zero_mod, Nat.mod_eq_of_lt (by omega)] at hinv
  cases hinv

/-- Decryption undoes encryption for every block below `pq`, coprime to it or not. -/
theorem pow_pow_mod_eq_self {m : Nat} (hm : m < p * q) : (m ^ (p ^ 2 * q) % (p ^ 2 * q)) ^ d % (p * q) = m := by
  obtain ⟨hpos, hinv⟩ := exponents_mul_pos_and_modEq_one hp hq hne hd
  have hboth : m ^ (p ^ 2 * q * d) ≡ m [MOD p * q] :=
    (Nat.modEq_and_modEq_iff_modEq_mul ((Nat.coprime_primes hp hq).mpr hne)).mp
      ⟨pow_modEq_self hp hpos (hinv.of_dvd (Nat.dvd_lcm_left _ _)) m,
        pow_modEq_self hq hpos (hinv.of_dvd (Nat.dvd_lcm_right _ _)) m⟩
  have hdvd : p * q ∣ p ^ 2 * q := ⟨p, by ring⟩
  have hcipher : m ^ (p ^ 2 * q) % (p ^ 2 * q) ≡ m ^ (p ^ 2 * q) [MOD p * q] := (Nat.mod_modEq _ _).of_dvd hdvd
  rw [pow_mul] at hboth
  exact Nat.mod_eq_of_modEq ((hcipher.pow d).trans hboth) hm

end

section
variable {sentinel : Byte} {len payload : Nat} (hs : sentinel ≠ 0#8) (hpay : payload < 2 ^ (8 * len))
include hs hpay

/-- A nonzero sentinel is the first byte of its block (46_cipher.md R184). -/
theorem bytelen_blockInt : bytelen (blockInt sentinel len payload) = len + 1 := by
  have hpos : 0 < sentinel.toNat := Nat.pos_of_ne_zero fun h0 => hs (BitVec.eq_of_toNat_eq h0)
  rw [two_pow_eight_mul] at hpay
  rw [blockInt, two_pow_eight_mul]
  refine le_antisymm ((bytelen_le_iff _ _).mpr ?_) (Nat.succ_le_of_lt (not_le.mp fun hle => ?_))
  · calc sentinel.toNat * 256 ^ len + payload < (sentinel.toNat + 1) * 256 ^ len := by rw [Nat.succ_mul]; omega
      _ ≤ 256 * 256 ^ len := Nat.mul_le_mul_right _ sentinel.isLt
      _ = 256 ^ (len + 1) := (pow_succ' 256 len).symm
  · have hlt := (bytelen_le_iff _ _).mp hle
    have hge := Nat.le_mul_of_pos_left (256 ^ len) hpos
    omega

theorem leadByte_blockInt : leadByte (blockInt sentinel len payload) = sentinel.toNat := by
  rw [leadByte_eq (bytelen_blockInt hs hpay), ← two_pow_eight_mul, blockInt, Nat.mul_comm,
    Nat.mul_add_div (Nat.two_pow_pos _), Nat.div_eq_of_lt hpay, Nat.add_zero]

theorem payloadOf_blockInt : payloadOf (blockInt sentinel len payload) = payload := by
  rw [payloadOf_eq (bytelen_blockInt hs hpay), ← two_pow_eight_mul, blockInt, Nat.mul_comm, Nat.mul_add_mod,
    Nat.mod_eq_of_lt hpay]

end

/-- Settles O60: the powers undo each other, and the block's leading byte is the sentinel, so what is left is the payload. -/
theorem ssRoundTripRestoresThePayload : Obligations.SsRoundTripRestoresThePayload := by
  intro p q d hp hq hne _ _ hd s₁ r₁ rd₁ rs1 rs2 hb₁ hn hlen hpay hs hlo hhi
  have hnpos : 0 < r₁.src rs2 := hn ▸ Nat.mul_pos (Nat.pow_pos hp.pos) hq.pos
  refine ⟨_, exec_encrypt_of_pos hb₁ rd₁ hlen hpay hlo hnpos, rfl, ?_⟩
  intro s₂ r₂ rd₂ a b c hb₂ hsame ha hbd hc
  rw [State.readReg_commitReg, if_pos rfl, hn] at ha
  have hplain : r₂.src a ^ r₂.src b % r₂.src c = blockInt r₁.sentinel r₁.arg.toNat (r₁.src rs1) := by
    rw [ha, hbd, hc, pow_pow_mod_eq_self hp hq hne hd hhi]
  have hcpos : 0 < r₂.src c := hc ▸ Nat.mul_pos hp.pos hq.pos
  refine ⟨_, exec_decrypt_of_power_pos hb₂ rd₂ hcpos (by omega) hplain, rfl, ?_, ?_, ?_⟩
  · rw [State.readReg_commitPayload, if_pos rfl, payloadOf_blockInt hs hpay]
  · rw [State.commitPayload_reslen, bytelen_blockInt hs hpay, Nat.add_sub_cancel, BitVec.ofNat_toNat,
      BitVec.setWidth_eq]
  · rw [State.commitPayload_status, leadByte_blockInt hs hpay, hsame]
    exact decide_eq_false (not_not.mpr rfl)

end Sys2Proof.Machine
end

section
/-! PROOF. The lifecycle of a command (60_exceptions.md): when a step is a micro-step of the running command (R207), what
acceptance does (R201), how an abort request is taken (R208), what a raise leaves (R203), and the overrun (R214). -/

namespace Sys2Proof

theorem Instr.not_isLooping_of_ne {i : Instr} (hp : ∀ rd rs1, i ≠ .isprime rd rs1) (hm : ∀ rd, i ≠ .makeprime rd) :
    i.isLooping = false := by
  unfold Instr.isLooping
  split
  · exact absurd rfl (hp _ _)
  · exact absurd rfl (hm _)
  · rfl

end Sys2Proof

namespace Sys2Proof.Machine

/-! The next event (log 3). -/

section
variable {s : State} {r : Running}

theorem microStep_of_decoded {i : Instr} (hb : s.ctl = .busy r) (ha : r.abortReq = false) (hd : decode r.cw = .ok i) :
    microStep s = exec i s := by
  simp [microStep, hb, ha, hd]

theorem microStep_of_abortReq (hb : s.ctl = .busy r) (ha : r.abortReq = true) :
    microStep s = .next (s.raise .aborted) := by
  simp [microStep, hb, ha]

end

/-- Settles O5: in both cases the step is a micro-step, with no abort to take and a word that decodes. -/
theorem stepRunsTheDecodedCommand : Obligations.StepRunsTheDecodedCommand := by
  rintro s r i es (he | ⟨he, rfl⟩) hb ha hd
  · exact (step_of_event he).trans (microStep_of_decoded (s := s.withEvents es) hb ha hd)
  · have hs : s.withEvents [] = s := by rw [← he]; rfl
    rw [hs, step_of_no_event he, microStep_of_decoded hb ha hd]

theorem microStep_answers (s : State) : ∃ t, microStep s = .next t := by
  obtain ⟨_, e⟩ | ⟨_, _, _, e⟩ | ⟨_, _, _, _, _, e⟩ | ⟨_, i, hb, _, _, e⟩ := microStep_cases s
  · exact ⟨_, e⟩
  · exact ⟨_, e⟩
  · exact ⟨_, e⟩
  · obtain ⟨t, ht, _⟩ := exec_answer hb i
    exact ⟨t, e.trans ht⟩

/-- Settles O7: an access and a reset answer a state by definition, and a micro-step does for every command. -/
theorem everyStepAnswersANextState : Obligations.EveryStepAnswersANextState := by
  intro s
  obtain ⟨_, e⟩ | ⟨_, _, _, e⟩ | ⟨es, _, e⟩ | ⟨_, _, e⟩ := step_cases s
  · exact e ▸ microStep_answers s
  · exact ⟨_, e⟩
  · exact e ▸ microStep_answers (s.withEvents es)
  · exact ⟨_, e⟩

/-! Acceptance (60_exceptions.md R201). -/

theorem clearsRounds_iff (cw : Word) : clearsRounds cw = true ↔ opField cw = 0x11#6 ∨ opField cw = 0x12#6 := by
  simp [clearsRounds]

theorem clearsTries_iff (cw : Word) : clearsTries cw = true ↔ opField cw = 0x12#6 := by
  simp [clearsTries]

/-- The snapshot has an entry for each source field, in field order (log 18). -/
theorem State.snapshotFor_registers (s : State) {cw : Word} {i : Instr} (h : decode cw = .ok i) :
    (s.snapshotFor cw).map Prod.fst = i.sources := by
  simp [State.snapshotFor, h, Function.comp_def]

/-- Settles O11: the write is `State.accept`, whose latch is `State.latch`; a reserved word is ILLEGAL at its first
micro-step. -/
theorem cmdWriteWhileIdleAcceptsTheCommand : Obligations.CmdWriteWhileIdleAcceptsTheCommand := by
  intro s cw hidle
  rw [State.hostWriteAt_cmd_idle hidle]
  refine ⟨_, s.latch cw, rfl, rfl, rfl, rfl, rfl, rfl, rfl, rfl, rfl, rfl, fun i hi => ⟨?_, fun ρ hρ => ?_⟩, rfl, ?_, ?_,
    fun _ => rfl, rfl, rfl, rfl, rfl, rfl, rfl, fun hres => ?_⟩
  · exact s.snapshotFor_registers hi
  · exact Running.src_of_snapshot (s.latch_snapshot cw) hi hρ
  · simp only [State.answer_rndcnt, State.accept_rndcnt, clearsRounds_iff]
  · simp only [State.answer_trycnt, State.accept_trycnt, clearsTries_iff]
  · exact ⟨_, microStep_of_reserved rfl rfl (decode_eq_error_of_reserved hres), rfl⟩

/-! The abort (60_exceptions.md R208) and the raise (R203). -/

theorem ResultsKept.raise (s : State) (e : ErrCode) : ResultsKept s (s.raise e) [] := (ResultsKept.refl s []).complete e

/-- A second request changes nothing. -/
theorem Ctl.orAbort_orAbort (c : Ctl) (b : Bool) : (c.orAbort b).orAbort b = c.orAbort b := by
  cases c <;> simp [Ctl.orAbort]

/-- A CTRL write without SRST as the host makes it (10_state.md R26). -/
theorem State.hostWriteAt_ctrl_not_srst (s : State) {v : Word} (h : v.getLsbD 2 = false) :
    s.hostWriteAt 0x008 v
      = ({ s with ctrl := Ctrl.ofWord v, ctl := s.ctl.orAbort (v.getLsbD 1) } : State).answer .written := by
  rw [s.hostWriteAt_ctrl v, s.writeCtrl_not_srst h]

/-- Settles O12: a CTRL write without SRST does to the controller what `Ctl.orAbort` says, and a micro-step with a request
pending raises ABORTED. -/
theorem abortWinsAtTheNextMicroStep : Obligations.AbortWinsAtTheNextMicroStep := by
  refine ⟨fun s r v hb habort hsrst => ?_, fun s v hidle hsrst => ?_, fun s v _ hsrst => ?_, fun s r hb ha => ?_⟩
  · simp [s.hostWriteAt_ctrl_not_srst hsrst, hb, habort, Ctl.orAbort]
  · simp [s.hostWriteAt_ctrl_not_srst hsrst, hidle, Ctl.orAbort]
  · simp [State.hostWriteAt_ctrl_not_srst _ hsrst, Ctl.orAbort_orAbort, State.answer]
  · exact ⟨_, microStep_of_abortReq hb ha, s.ended_raise _, .raise s _, rfl⟩

section
variable {s t : State} {r : Running} {i : Instr}

/-- Of the ways to end, only a raise leaves an error. -/
theorem CommandStep.eq_raise (h : CommandStep s r i t) (hi : t.ctl = .idle) (herr : t.status.err ≠ .ok) :
    ∃ e, t = s.raise e := by
  cases h with
  | raised => exact ⟨_, rfl⟩
  | goesOn => cases hi
  | _ => exact absurd rfl herr

/-- A command that goes on has written no operand register, no STATUS bit and not RESLEN. -/
theorem CommandStep.keeps_of_not_idle (h : CommandStep s r i t) (hi : t.ctl ≠ .idle) :
    t.x = s.x ∧ t.status = s.status ∧ t.reslen = s.reslen := by
  cases h with
  | goesOn => exact ⟨rfl, rfl, rfl⟩
  | _ => exact absurd rfl hi

/-- A command of one micro-step ends in it (60_exceptions.md R207). -/
theorem CommandStep.idle_of_not_isLooping (h : CommandStep s r i t) (hl : i.isLooping = false) : t.ctl = .idle := by
  cases h with
  | goesOn loops => cases hl.symm.trans loops
  | _ => rfl

/-- What a micro-step of a Busy controller can do: raise, or a step of its command (60_exceptions.md R207). -/
theorem raise_or_commandStep_of_microStep (hb : s.ctl = .busy r) (h : microStep s = .next t) :
    (∃ e, t = s.raise e) ∨ ∃ i, CommandStep s r i t := by
  obtain ⟨hc, _⟩ | ⟨_, _, _, e⟩ | ⟨_, _, _, _, _, e⟩ | ⟨_, i, hb', _, _, e⟩ := microStep_cases s
  · cases hb.symm.trans hc
  · cases e.symm.trans h
    exact .inl ⟨_, rfl⟩
  · cases e.symm.trans h
    exact .inl ⟨_, rfl⟩
  · exact .inr ⟨i, commandStep_of_exec hb (e.symm.trans h)⟩

end

/-- Settles O13: a micro-step that ends with an error is a raise, and one that goes on writes no result. -/
theorem raiseWritesNoResult : Obligations.RaiseWritesNoResult := by
  refine ⟨fun s t r hb h hi herr => ?_, fun s t r hb h hi => ?_⟩
  · have hraise : ∃ e, t = s.raise e := by
      obtain hr | ⟨i, hstep⟩ := raise_or_commandStep_of_microStep hb h
      · exact hr
      · exact hstep.eq_raise hi herr
    obtain ⟨e, rfl⟩ := hraise
    exact ⟨s.ended_raise e, .raise s e, rfl⟩
  · obtain ⟨e, rfl⟩ | ⟨i, hstep⟩ := raise_or_commandStep_of_microStep hb h
    · exact absurd rfl hi
    · exact hstep.keeps_of_not_idle hi

/-- Settles O14: only the two looping commands go on, and a command that does not go on has ended. -/
theorem otherCommandsTakeOneMicroStep : Obligations.OtherCommandsTakeOneMicroStep := by
  intro s r i hb hp hm
  obtain ⟨t, ht, hstep⟩ := exec_answer hb i
  exact ⟨t, t.status.err, ht, hstep.ended (hstep.idle_of_not_isLooping (Instr.not_isLooping_of_ne hp hm))⟩

/-! The overrun (60_exceptions.md R214). -/

theorem State.hostWriteAt_cmd_busy {s : State} (h : s.isBusy = true) (v : Word) :
    s.hostWriteAt 0x014 v = s.setOvr.answer .written := by
  rw [s.hostWriteAt_control v (by decide) (by decide)]
  simp [State.writeControl, State.writeCmd, h]

section
variable {s t : State}

/-- No micro-step writes the host's side (10_state.md R33), the sticky OVR included. -/
theorem microStep_host (h : microStep s = .next t) : HostPartSame s t := by
  cases hc : s.ctl with
  | idle =>
    cases (microStep_idle hc).symm.trans h
    exact .refl s
  | busy r =>
    obtain ⟨e, rfl⟩ | ⟨i, hstep⟩ := raise_or_commandStep_of_microStep hc h
    · exact (s.ended_raise e).host
    · exact hstep.host

variable (hovr : s.status.ovr = true)
include hovr

theorem ovr_writeCmd (v : Word) : (s.writeCmd v).status.ovr = true := by
  unfold State.writeCmd
  split
  · rfl
  · exact hovr

theorem ovr_writeOperand (k : Reg) (j : Nat) (v : Word) : (s.writeOperand k j v).status.ovr = true := by
  unfold State.writeOperand
  split
  · rfl
  · exact hovr

theorem ovr_readOperand (k : Reg) (j : Nat) : (s.readOperand k j).status.ovr = true := by
  unfold State.readOperand
  split <;> exact hovr

/-- Of the control page, only the OVR bit of STATUS and the SRST bit of CTRL clear OVR. -/
theorem ovr_writeControl (off : Nat) (v : Word) :
    (s.writeControl off v).status.ovr = true ∨ (off = 0x00C ∧ v.getLsbD 12 = true)
      ∨ (off = 0x008 ∧ v.getLsbD 2 = true) := by
  unfold State.writeControl
  split
  · cases hsrst : v.getLsbD 2 with
    | false => exact .inl (by rw [s.writeCtrl_not_srst hsrst]; exact hovr)
    | true => exact .inr (.inr ⟨rfl, rfl⟩)
  · cases hclear : v.getLsbD 12 with
    | false =>
      left
      show (s.status.ovr && !v.getLsbD 12) = true
      rw [hovr, hclear]
      rfl
    | true => exact .inr (.inl ⟨rfl, rfl⟩)
  · exact .inl hovr
  · exact .inl (ovr_writeCmd hovr v)
  · exact .inl hovr
  · exact .inl hovr

/-- Of all host accesses, only a write of 1 to STATUS.OVR and a soft reset clear OVR. -/
theorem ovr_hostAccess (a : Access) :
    (s.hostAccess a).status.ovr = true
      ∨ (∃ v : Word, a = .write (s.par.base + 0x00C) 4 v ∧ v.getLsbD 12 = true)
      ∨ (∃ v : Word, a = .write (s.par.base + 0x008) 4 v ∧ v.getLsbD 2 = true) := by
  cases a with
  | read addr size =>
    left
    obtain ⟨_, e⟩ | ⟨_, _, _, e⟩ | ⟨_, _, _, _, _, e⟩ | ⟨k, j, _, _, _, e⟩ := s.read_cases addr size <;> rw [e]
    · exact hovr
    · exact hovr
    · exact hovr
    · exact ovr_readOperand hovr k j
  | write addr size v =>
    obtain ⟨_, e⟩ | ⟨_, _, _, e⟩ | ⟨off, hoff, _, hsize, _, e⟩ | ⟨k, j, _, _, _, e⟩ := s.write_cases addr size v
      <;> rw [e]
    · exact .inl hovr
    · exact .inl hovr
    · rw [State.eq_base_add_of_offsetOf hoff, hsize]
      obtain hkept | ⟨rfl, hv⟩ | ⟨rfl, hv⟩ := ovr_writeControl hovr off v
      · exact .inl hkept
      · exact .inr (.inl ⟨v, rfl, hv⟩)
      · exact .inr (.inr ⟨v, rfl, hv⟩)
    · exact .inl (ovr_writeOperand hovr k j v)

end

/-- Settles O24: both writes are `State.setOvr` while Busy, and of the events only the three named clear OVR. -/
theorem overrunIsLostAndSticky : Obligations.OverrunIsLostAndSticky := by
  refine ⟨fun s v hb => State.hostWriteAt_cmd_busy hb v, fun s k j v hb hj => ?_, fun s t hovr h => ?_⟩
  · rw [s.hostWriteAt_operand k v hj, State.writeOperand_busy hb]
    rfl
  · obtain ⟨_, e⟩ | ⟨a, es, he, e⟩ | ⟨es, _, e⟩ | ⟨es, he, e⟩ := step_cases s <;> rw [e] at h
    · exact .inl ((microStep_host h).ovr.trans hovr)
    · cases h
      obtain hkept | ⟨v, rfl, hv⟩ | ⟨v, rfl, hv⟩ := ovr_hostAccess (s := s.withEvents es) hovr a
      · exact .inl hkept
      · exact .inr (.inr (.inl ⟨v, es, he, hv⟩))
      · exact .inr (.inr (.inr ⟨v, es, he, hv⟩))
    · exact .inl ((microStep_host h).ovr.trans hovr)
    · exact .inr (.inl ⟨es, he⟩)

end Sys2Proof.Machine
end
